-- ==== Sys2Proof/Word.lean ====
section
/-! DEFINITION. The words of the RVT316: what crosses a link, what a time base holds. -/

namespace Sys2Proof

/-- One word of a serial link (00_scope.md, "Ports and frames"): 16 bits. -/
abbrev Word := BitVec 16

/-- A value of the 1 ms time base, or of LIO's microsecond count: 32 bits that wrap
(00_scope.md, "Time"). -/
abbrev Count32 := BitVec 32

end Sys2Proof
end

