-- ==== Sys2Proof/Syntax.lean ====
section
/-! DEFINITION. The commands of the RVT316: one constructor per row of spec/opcode_table.json. -/

namespace Sys2Proof

/-- The three ports (00_scope.md, "Typical Placement"). -/
inductive Port where
  | chassis
  | cab
  | panel
  deriving DecidableEq, Repr, Inhabited

/-- The four discrete inputs (chapter 7, section 7.1). -/
inductive DiscreteInput where
  | parkBrake
  | neutralSense
  | ptoFeedback
  | panelStop
  deriving DecidableEq, Repr, Inhabited

/-- The levels of the four discrete input lines at a sample: `true` is high. -/
structure Levels where
  parkBrake : Bool
  neutralSense : Bool
  ptoFeedback : Bool
  panelStop : Bool
  deriving DecidableEq, Repr, Inhabited

/-- The circumstances of a step, which no row of the table names: `dt`, the microseconds since the
step before it; `picks`, the order in which units take the hand-overs under way (R48, R56, R71,
R121, R134: independent, none waits for another), an absent pick being 0, the oldest hand-over that
may be taken; and `takes`, how many of them are taken before a step that comes at the same moment:
all, or the number given (R10, R11, R13, R35: what reaches a unit together is taken in either
order).  DESIGN CHOICE (log entries 1, 2 and 17). -/
structure When where
  dt : Nat
  picks : List Nat
  takes : Option Nat
  deriving DecidableEq, Repr, Inhabited

/-- The commands: the operations and events of the part, each whole and indivisible
(95_what_each_step_holds.md).  A request row is the owner's taking of the request that its port's
link has handed on (R139), so its arguments stand in the link. -/
inductive Instr where
  /-- R163: the logic supply comes within its range. -/
  | supplyStart (w : When)
  /-- R163: the RESET line goes low. -/
  | resetLine (w : When)
  /-- R163: the RESET line goes high. -/
  | resetLineRelease (w : When)
  /-- R162: the start-up load ends; `lines` is what LIO's first sample finds (R122). -/
  | startUpLoadEnd (w : When) (lines : Levels)
  /-- R5. -/
  | startUpWaitExpiry (w : When)
  /-- R124. -/
  | settleIntervalExpiry (w : When)
  /-- R123: input `i`'s stability timer. -/
  | stabilityTimerExpiry (w : When) (i : DiscreteInput)
  /-- R125. -/
  | tachEdge (w : When)
  /-- R126. -/
  | silenceTimerExpiry (w : When)
  /-- R127. -/
  | roadPulseEdge (w : When)
  /-- R117, R127. -/
  | gateEnd (w : When)
  /-- R129. -/
  | scanPeriodExpiry (w : When)
  /-- R134: the conversion in progress gives `code`. -/
  | conversionCompletion (w : When) (code : BitVec 12)
  /-- R136. -/
  | throttlePwmPeriodStart (w : When)
  /-- R139. -/
  | selectFall (w : When) (p : Port)
  /-- R140; `part` says whether part of a word was clocked since the last complete one. -/
  | selectRise (w : When) (p : Port) (part : Bool)
  /-- R139. -/
  | answerCompletion (w : When) (p : Port)
  /-- R147. -/
  | readStatus (w : When) (p : Port)
  /-- R68. -/
  | readRow (w : When) (p : Port)
  /-- R152. -/
  | readNotice (w : When) (p : Port)
  /-- R155. -/
  | readResetCause (w : When) (p : Port)
  /-- R159. -/
  | readConfig (w : When) (p : Port)
  /-- R113. -/
  | reportSpeed (w : When) (p : Port)
  /-- R31. -/
  | engage (w : When) (p : Port)
  /-- R35. -/
  | roll (w : When) (p : Port)
  /-- R36. -/
  | stopRoll (w : When) (p : Port)
  /-- R33. -/
  | disengage (w : When) (p : Port)
  /-- R86. -/
  | setGovernor (w : When) (p : Port)
  /-- R101. -/
  | selectSupply (w : When) (p : Port)
  /-- R103. -/
  | fillStart (w : When) (p : Port)
  /-- R110. -/
  | fillStop (w : When) (p : Port)
  /-- R62. -/
  | ackRow (w : When) (p : Port)
  /-- R63. -/
  | writeRow (w : When) (p : Port)
  /-- R66. -/
  | lockTableSet (w : When) (p : Port)
  /-- R66. -/
  | lockTableClear (w : When) (p : Port)
  /-- R157. -/
  | writeConfig (w : When) (p : Port)
  /-- R160. -/
  | storeConfig (w : When) (p : Port)
  /-- R161; `flaws` lists the image words that the non-volatile memory did not hold as written:
  the word's place in the image (the checksum's is 261) and what stands there. -/
  | storeEnd (w : When) (flaws : List (Nat × Word))
  /-- R153. -/
  | postNote (w : When) (p : Port)
  /-- R12. -/
  | shiftTimerExpiry (w : When)
  /-- R18. -/
  | spinDownLimitExpiry (w : When)
  /-- R22. -/
  | releaseTimerExpiry (w : When)
  /-- R50: row `row`'s hold timer. -/
  | holdTimerExpiry (w : When) (row : Nat)
  /-- R105. -/
  | fillTimeoutExpiry (w : When)
  /-- R105. -/
  | stallWindowExpiry (w : When)
  /-- R114. -/
  | staleTimerExpiry (w : When)
  /-- R119. -/
  | disagreementTimerExpiry (w : When)
  /-- R123: the sample at a millisecond of the time base. -/
  | inputSample (w : When) (lines : Levels)
  /-- R139: the sixteenth clock edge; `word` is the word clocked in. -/
  | wordCompletion (w : When) (p : Port) (word : Word)
  deriving DecidableEq, Repr

end Sys2Proof
end

