-- ==== Sys2Proof/Config.lean ====
section
/-! DEFINITION. The types of the working configuration (R156) and the model's free values. -/

namespace Sys2Proof

/-- One value for each port. -/
structure PerPort (α : Type) where
  chassis : α
  cab : α
  panel : α
  deriving DecidableEq, Repr, Inhabited

/-- Where the pump draws its water (R101). -/
inductive Supply where
  | tank
  | external
  deriving DecidableEq, Repr, Inhabited

/-- The classes of action that a lockout row can forbid (R57). -/
inductive BlockKind where
  | drive
  | pto
  | roll
  | throttle
  | draw
  | fill
  deriving DecidableEq, Repr, Inhabited

/-- A set of block kinds, bit n for the kind of code n (section 11.1). -/
abbrev BlockSet := BitVec 6

/-- The rights of item 13 (R144); MODE is held by a non-zero rank. -/
inductive Right where
  | speedSource
  | roll
  | govern
  | tank
  | lockoutEdit
  | ack
  | config
  deriving DecidableEq, Repr, Inhabited

/-- A set of rights, bit n for the right of code n (section 11.1). -/
abbrev RightSet := BitVec 7

/-- The seventeen sources of R42, in its order. -/
inductive Source where
  | roadSpeed
  | pumpSpeed
  | discharge
  | intake
  | tank0Volume
  | tank1Volume
  | tank0State
  | tank1State
  | aux0
  | aux1
  | inputs
  | transmission
  | speedQuality
  | supply
  | fillActive
  | configInvalid
  | throttleDemand
  deriving DecidableEq, Repr, Inhabited

/-- The five comparisons of R44. -/
inductive Comparison where
  | always
  | inside
  | outside
  | maskedEqual
  | maskedDiffer
  deriving DecidableEq, Repr, Inhabited

/-- A lockout row's record (R41).  `mask` holds bit n for the mode of code n; `onFaultTrue` is the
on-fault field, TRUE or HOLD. -/
structure RowRecord where
  enable : Bool
  source : Source
  comparison : Comparison
  lo : Int
  hi : Int
  h : Nat
  mask : BitVec 8
  precursor : Option Nat
  hold : Nat
  latched : Bool
  blocks : BlockSet
  onFaultTrue : Bool
  deriving DecidableEq, Repr, Inhabited

/-- Item 1: governor gains (R88). -/
structure Gains where
  kpPressure : Nat
  kiPressure : Nat
  kpSpeed : Nat
  kiSpeed : Nat
  slew : Nat
  ceiling : Nat
  deriving DecidableEq, Repr, Inhabited

/-- Item 2: governor defaults (R88); F is signed. -/
structure GovDefaults where
  pressure : Nat
  speed : Nat
  floor : Int
  hysteresis : Nat
  deriving DecidableEq, Repr, Inhabited

/-- Item 3: fixed-row thresholds (R60). -/
structure FixedRowItems where
  rollLimit : Nat
  pMax : Nat
  hold2 : Nat
  hold3 : Nat
  hold6 : Nat
  hold9 : Nat
  hold10 : Nat
  deriving DecidableEq, Repr, Inhabited

/-- One part of item 4: a tank's thresholds and hysteresis (R99). -/
structure TankThresholds where
  empty : Nat
  low : Nat
  full : Nat
  hv : Nat
  deriving DecidableEq, Repr, Inhabited

/-- Item 5: tolerances (R119, R92). -/
structure Tolerances where
  speed : Nat
  gauge : Nat
  deriving DecidableEq, Repr, Inhabited

/-- Item 6: sequencer timing (R8, R123). -/
structure Timing where
  shift : Nat
  spinDown : Nat
  release : Nat
  disengageSpeed : Nat
  debounce : Nat
  deriving DecidableEq, Repr, Inhabited

/-- Item 7: sensing rates (R125, R117, R114, R129). -/
structure Rates where
  q : Nat
  gate : Nat
  pulsesPerKm : Nat
  reportInterval : Nat
  scanPeriod : Nat
  deriving DecidableEq, Repr, Inhabited

/-- Item 8: fill and apparatus (R105, R107, R101, R35); the timeout in minutes, the window in
seconds. -/
structure FillItems where
  timeoutMin : Nat
  stallSec : Nat
  minRise : Nat
  supplyDefault : Supply
  rollEnabled : Bool
  deriving DecidableEq, Repr, Inhabited

/-- One part of item 10: a channel's calibration record (R131). -/
structure Calibration where
  offset : Nat
  gain : Nat
  lo : Nat
  hi : Nat
  deriving DecidableEq, Repr, Inhabited

/-- One point of a strapping table (R96): level in mm, volume in litres. -/
structure StrapPoint where
  level : Nat
  volume : Nat
  deriving DecidableEq, Repr, Inhabited

/-- The working configuration (R156): items 1 to 14 and the records of rows 12 to 23. -/
structure WorkingConfig where
  gains : Gains
  govDefaults : GovDefaults
  fixedRows : FixedRowItems
  tank0 : TankThresholds
  tank1 : TankThresholds
  tolerances : Tolerances
  timing : Timing
  rates : Rates
  fillItems : FillItems
  scanList : List Nat
  calibration : List Calibration
  strap0 : List StrapPoint
  strap1 : List StrapPoint
  rights : PerPort RightSet
  ranks : PerPort Nat
  subscriptions : PerPort Word
  rows : List RowRecord
  deriving DecidableEq, Repr, Inhabited

/-- Free value: what a quotient by zero gives.  The spec's quotients have positive divisors but for
two tach edges in one microsecond (R125, outside the rated edge rate).  Log entry 3. -/
opaque Config.overZero : Nat → Nat

/-- Free value: the source of a row whose image word holds a code, 17 to 31, that names none.  A sum
may agree with its checksum in an image that R160 never wrote.  Log entry 4. -/
opaque Config.unstatedSource : Nat → Source

/-- Free value: the comparison of a row whose image word holds a code, 5 to 7, that names none.  Log
entry 4. -/
opaque Config.unstatedComparison : Nat → Comparison

/-- Free value: the supply default of an image word that names none.  Log entry 4. -/
opaque Config.unstatedSupply : Nat → Supply

/-- Free value: whether a part of a multi-part item that is refused NO_RIGHT discards the sender's
staging record, as R158 says of a part refused at any check, or leaves it, as R145 and R157 say of a
refused request.  Log entry 38. -/
opaque Config.discardsWithoutRight : Bool

/-- Free value: ROLL_ENABLED of an image word that is neither no nor yes.  Log entry 4. -/
opaque Config.unstatedFlag : Nat → Bool

end Sys2Proof
end

