-- ==== Sys2Proof/Machine/Operands.lean ====
section
/-! DEFINITION. The arithmetic of the spec (00_scope.md, "Arithmetic"), words and packed fields. -/

namespace Sys2Proof.Machine

/-- "Clamped to a range": the nearer end of the range when `x` lies outside it. -/
def clampNat (lo hi x : Nat) : Nat := if x < lo then lo else if hi < x then hi else x

/-- "Clamped to a range", on integers. -/
def clampInt (lo hi x : Int) : Int := if x < lo then lo else if hi < x then hi else x

/-- A quotient "rounded": to the nearest integer, a tie away from zero. -/
def roundedDiv (n : Int) (d : Nat) : Int :=
  if 0 ≤ n then Int.tdiv (2 * n + d) (2 * d) else Int.tdiv (2 * n - d) (2 * d)

/-- A quotient of naturals, "truncated"; a divisor of 0 gives a free value (log entry 3). -/
def truncatedQuotient (n d : Nat) : Nat := if d = 0 then Config.overZero n else n / d

/-- A number as one word of a link, a negative one in two's complement. -/
def wordOfInt (v : Int) : Word := BitVec.ofInt 16 v

/-- A natural number as one word of a link. -/
def wordOfNat (v : Nat) : Word := BitVec.ofNat 16 v

/-- The low 16 bits of a time-base value: a stamp (00_scope.md, "Time"). -/
def lowWord (t : Count32) : Word := t.setWidth 16

/-- Fields given as (width, value) pairs, filled from bit 0 upward (section 11.3). -/
def packFields : List (Nat × Nat) → Nat
  | [] => 0
  | (width, v) :: rest => v % 2 ^ width + 2 ^ width * packFields rest

/-- `packFields` as a word. -/
def packWord (fields : List (Nat × Nat)) : Word := wordOfNat (packFields fields)

/-- The field of `width` bits that begins at bit `low` of a word. -/
def fieldOf (w : Word) (low width : Nat) : Nat := w.toNat / 2 ^ low % 2 ^ width

/-- A yes-or-no as a bit. -/
def bit (b : Bool) : Nat := if b then 1 else 0

/-- The list with its entry `i` replaced. -/
def replaceAt {α : Type} : List α → Nat → α → List α
  | [], _, _ => []
  | _ :: rest, 0, a => a :: rest
  | b :: rest, i + 1, a => b :: replaceAt rest i a

/-- The value that a port holds. -/
def portGet {α : Type} (m : PerPort α) : Port → α
  | .chassis => m.chassis
  | .cab => m.cab
  | .panel => m.panel

/-- `m` with port `p`'s value replaced. -/
def portSet {α : Type} (m : PerPort α) (p : Port) (a : α) : PerPort α :=
  match p with
  | .chassis => { m with chassis := a }
  | .cab => { m with cab := a }
  | .panel => { m with panel := a }

/-- The same value for the three ports. -/
def samePorts {α : Type} (a : α) : PerPort α := ⟨a, a, a⟩

end Sys2Proof.Machine
end

