-- ==== Sys2Proof/Machine/Codes.lean ====
section
/-! DEFINITION. The codes of section 11.1 for the enumerations of the configuration. -/

namespace Sys2Proof.Machine

/-- Section 11.1: CHASSIS 0, CAB 1, PANEL 2. -/
def portCode : Port → Nat
  | .chassis => 0
  | .cab => 1
  | .panel => 2

/-- The port of a code, none for 3 and above. -/
def portOfCode : Nat → Option Port
  | 0 => some .chassis
  | 1 => some .cab
  | 2 => some .panel
  | _ => none

/-- A holder field: the port, or 3 for none (section 11.1). -/
def holderCode : Option Port → Nat
  | some p => portCode p
  | none => 3

/-- Section 11.1, by the value column of R42: TANK 0, EXTERNAL 1. -/
def supplyCode : Supply → Nat
  | .tank => 0
  | .external => 1

/-- The supply of a code. -/
def supplyOfCode : Nat → Option Supply
  | 0 => some .tank
  | 1 => some .external
  | _ => none

/-- Section 11.1: DRIVE 0, PTO 1, ROLL 2, THROTTLE 3, DRAW 4, FILL 5. -/
def blockBit : BlockKind → Nat
  | .drive => 0
  | .pto => 1
  | .roll => 2
  | .throttle => 3
  | .draw => 4
  | .fill => 5

/-- The set holds the kind. -/
def holdsBlock (b : BlockSet) (k : BlockKind) : Bool := b.getLsbD (blockBit k)

/-- Section 11.1: SPEED_SOURCE 0, ROLL 1, GOVERN 2, TANK 3, LOCKOUT_EDIT 4, ACK 5, CONFIG 6. -/
def rightBit : Right → Nat
  | .speedSource => 0
  | .roll => 1
  | .govern => 2
  | .tank => 3
  | .lockoutEdit => 4
  | .ack => 5
  | .config => 6

/-- The set holds the right. -/
def holdsRight (r : RightSet) (k : Right) : Bool := r.getLsbD (rightBit k)

/-- Section 11.1: "in the order of R42, ROAD_SPEED 0 to THROTTLE_DEMAND 16". -/
def sourceCode : Source → Nat
  | .roadSpeed => 0
  | .pumpSpeed => 1
  | .discharge => 2
  | .intake => 3
  | .tank0Volume => 4
  | .tank1Volume => 5
  | .tank0State => 6
  | .tank1State => 7
  | .aux0 => 8
  | .aux1 => 9
  | .inputs => 10
  | .transmission => 11
  | .speedQuality => 12
  | .supply => 13
  | .fillActive => 14
  | .configInvalid => 15
  | .throttleDemand => 16

/-- The source of a code; 17 to 31 name none (R164). -/
def sourceOfCode : Nat → Option Source
  | 0 => some .roadSpeed
  | 1 => some .pumpSpeed
  | 2 => some .discharge
  | 3 => some .intake
  | 4 => some .tank0Volume
  | 5 => some .tank1Volume
  | 6 => some .tank0State
  | 7 => some .tank1State
  | 8 => some .aux0
  | 9 => some .aux1
  | 10 => some .inputs
  | 11 => some .transmission
  | 12 => some .speedQuality
  | 13 => some .supply
  | 14 => some .fillActive
  | 15 => some .configInvalid
  | 16 => some .throttleDemand
  | _ => none

/-- Section 11.1: ALWAYS 0, INSIDE 1, OUTSIDE 2, MASKED_EQUAL 3, MASKED_DIFFER 4. -/
def comparisonCode : Comparison → Nat
  | .always => 0
  | .inside => 1
  | .outside => 2
  | .maskedEqual => 3
  | .maskedDiffer => 4

/-- The comparison of a code; 5 to 7 name none (R164). -/
def comparisonOfCode : Nat → Option Comparison
  | 0 => some .always
  | 1 => some .inside
  | 2 => some .outside
  | 3 => some .maskedEqual
  | 4 => some .maskedDiffer
  | _ => none

end Sys2Proof.Machine
end

