-- ==== Sys2Proof/Machine/ConfigItems.lean ====
section
/-! DEFINITION. The items of the working configuration: factory values, ranges, words (chapter 10). -/

namespace Sys2Proof.Machine

/-! ### Row records in words (section 11.2) -/

/-- A row record's six words. -/
def rowWords (r : RowRecord) : List Word :=
  [ packWord [(5, sourceCode r.source), (5, 0), (3, comparisonCode r.comparison),
      (1, bit r.onFaultTrue), (1, bit r.latched), (1, bit r.enable)],
    wordOfInt r.lo,
    wordOfInt r.hi,
    packWord [(10, r.h), (6, r.blocks.toNat)],
    packWord [(8, r.mask.toNat), (5, r.precursor.getD 31)],
    wordOfNat r.hold ]

/-- A word of `lo` or `hi`: signed for INTAKE, unsigned for every other source (R164). -/
def boundOfWord (source : Source) (w : Word) : Int :=
  if source = .intake then w.toInt else (w.toNat : Int)

/-- The record that six words spell, its source and its comparison being those given. -/
def rowFields (source : Source) (comparison : Comparison) (w1 w2 w3 w4 w5 w6 : Word) : RowRecord :=
  { enable := w1.getLsbD 15
    source := source
    comparison := comparison
    lo := boundOfWord source w2
    hi := boundOfWord source w3
    h := fieldOf w4 0 10
    mask := w5.setWidth 8
    precursor := if fieldOf w5 8 5 = 31 then none else some (fieldOf w5 8 5)
    hold := w6.toNat
    latched := w1.getLsbD 14
    blocks := BitVec.ofNat 6 (fieldOf w4 10 6)
    onFaultTrue := w1.getLsbD 13 }

/-- The record that six words spell; none when a field's code names no value of its enumeration. -/
def rowOfWords : List Word → Option RowRecord
  | [w1, w2, w3, w4, w5, w6] =>
    match sourceOfCode (fieldOf w1 0 5), comparisonOfCode (fieldOf w1 10 3) with
    | some source, some comparison => some (rowFields source comparison w1 w2 w3 w4 w5 w6)
    | _, _ => none
  | _ => none

/-- R64: the record is valid for row `index`. -/
def rowValid (index : Nat) (r : RowRecord) : Bool :=
  (match r.comparison with
    | .inside | .outside => decide (r.lo ≤ r.hi)
    | _ => true) &&
  decide (r.h ≤ 1000) && decide (r.hold ≤ 60000) &&
  (match r.precursor with
    | none => true
    | some p => decide (p < index))

/-! ### Factory defaults -/

/-- The factory default record of every programmable row (R40). -/
def factoryRow : RowRecord :=
  { enable := false, source := .roadSpeed, comparison := .always, lo := 0, hi := 0, h := 0
    mask := 0, precursor := none, hold := 0, latched := false, blocks := 0, onFaultTrue := false }

/-- A table of points from two columns (R97). -/
def strapOf (levels volumes : List Nat) : List StrapPoint :=
  List.zipWith StrapPoint.mk levels volumes

/-- The levels of both factory strapping tables (R97). -/
def factoryLevels : List Nat := [0, 250, 500, 750, 1000, 1250, 1500, 1750, 2000]

/-- The factory working configuration: R29, R40, R60, R88, R92, R97, R99, R101, R105, R107, R114,
R117, R119, R123, R125, R129 to R131, R144, R150, R156. -/
def factory : WorkingConfig :=
  { gains := ⟨48, 12, 32, 8, 20, 1000⟩
    govDefaults := ⟨1000, 1200, 35, 20⟩
    fixedRows := ⟨80, 2800, 2000, 8000, 1000, 500, 1000⟩
    tank0 := ⟨100, 500, 2700, 50⟩
    tank1 := ⟨20, 80, 380, 10⟩
    tolerances := ⟨30, 40⟩
    timing := ⟨2000, 3000, 2000, 700, 20⟩
    rates := ⟨4, 250, 8000, 100, 20⟩
    fillItems := ⟨20, 30, 20, .tank, true⟩
    scanList := [0, 1, 2, 3, 4, 5, 6, 7]
    calibration :=
      [⟨410, 1250, 205, 3890⟩, ⟨615, 500, 205, 3890⟩, ⟨410, 625, 205, 3890⟩,
        ⟨410, 625, 205, 3890⟩, ⟨410, 625, 205, 3890⟩, ⟨410, 625, 205, 3890⟩,
        ⟨0, 1024, 0, 4095⟩, ⟨0, 1024, 0, 4095⟩]
    strap0 := strapOf factoryLevels [0, 350, 700, 1050, 1400, 1750, 2100, 2450, 2800]
    strap1 := strapOf factoryLevels [0, 50, 100, 150, 200, 250, 300, 350, 400]
    rights := ⟨0x71, 0x22, 0x2C⟩
    ranks := ⟨3, 2, 1⟩
    subscriptions := ⟨0x502, 0x12A, 0x0FA⟩
    rows := List.replicate 12 factoryRow }

/-! ### The parts of the items -/

/-- How many parts an item has; 0 for a number that is no item (R156). -/
def partCount : Nat → Nat
  | 4 => 2
  | 9 => 2
  | 10 => 8
  | 11 => 3
  | 12 => 3
  | n => if 1 ≤ n ∧ n ≤ 14 then 1 else 0

/-- Items 6 to 14 are structural, items 1 to 5 tuning (R156). -/
def structuralItem (item : Nat) : Bool := decide (6 ≤ item)

/-- Items 9, 11 and 12 are multi-part items (R156). -/
def multiPartItem (item : Nat) : Bool := item == 9 || item == 11 || item == 12

/-- The words of a part, filled up to seven with words of 0 (R156, R160). -/
def sevenWords (ws : List Word) : List Word := (ws ++ List.replicate 7 0).take 7

/-- The two words of a strapping point. -/
def pointWords (q : StrapPoint) : List Word := [wordOfNat q.level, wordOfNat q.volume]

/-- The words of three points from point `3 * part` on (R156). -/
def strapPart (table : List StrapPoint) (part : Nat) : List Word :=
  ((table.drop (3 * part)).take 3).flatMap pointWords

/-- The words of a tank's thresholds (R156). -/
def thresholdWords (t : TankThresholds) : List Word :=
  [wordOfNat t.empty, wordOfNat t.low, wordOfNat t.full, wordOfNat t.hv]

/-- The listed values of a part in word order (R156). -/
def partValues (c : WorkingConfig) (item part : Nat) : List Word :=
  match item with
  | 1 => [c.gains.kpPressure, c.gains.kiPressure, c.gains.kpSpeed, c.gains.kiSpeed, c.gains.slew,
      c.gains.ceiling].map wordOfNat
  | 2 => [wordOfNat c.govDefaults.pressure, wordOfNat c.govDefaults.speed,
      wordOfInt c.govDefaults.floor, wordOfNat c.govDefaults.hysteresis]
  | 3 => [c.fixedRows.rollLimit, c.fixedRows.pMax, c.fixedRows.hold2, c.fixedRows.hold3,
      c.fixedRows.hold6, c.fixedRows.hold9, c.fixedRows.hold10].map wordOfNat
  | 4 => thresholdWords (if part = 0 then c.tank0 else c.tank1)
  | 5 => [c.tolerances.speed, c.tolerances.gauge].map wordOfNat
  | 6 => [c.timing.shift, c.timing.spinDown, c.timing.release, c.timing.disengageSpeed,
      c.timing.debounce].map wordOfNat
  | 7 => [c.rates.q, c.rates.gate, c.rates.pulsesPerKm, c.rates.reportInterval,
      c.rates.scanPeriod].map wordOfNat
  | 8 => [c.fillItems.timeoutMin, c.fillItems.stallSec, c.fillItems.minRise,
      supplyCode c.fillItems.supplyDefault, bit c.fillItems.rollEnabled].map wordOfNat
  | 9 => if part = 0 then (c.scanList.length :: c.scanList.take 6).map wordOfNat
      else (c.scanList.drop 6).map wordOfNat
  | 10 =>
    match c.calibration[part]? with
    | some k => [k.offset, k.gain, k.lo, k.hi].map wordOfNat
    | none => []
  | 11 => strapPart c.strap0 part
  | 12 => strapPart c.strap1 part
  | 13 => [c.rights.chassis.setWidth 16, c.rights.cab.setWidth 16, c.rights.panel.setWidth 16,
      wordOfNat c.ranks.chassis, wordOfNat c.ranks.cab, wordOfNat c.ranks.panel]
  | 14 => [c.subscriptions.chassis, c.subscriptions.cab, c.subscriptions.panel]
  | _ => []

/-- The seven value words of a part, as READ_CONFIG shows them and the image holds them
(R159, R160). -/
def partWords (c : WorkingConfig) (item part : Nat) : List Word := sevenWords (partValues c item part)

/-! ### Ranges and consistency (R157, check 3) -/

/-- `x` lies in `lo..hi`. -/
def within (lo hi x : Nat) : Bool := decide (lo ≤ x) && decide (x ≤ hi)

def timingValid (t : Timing) : Bool :=
  within 500 5000 t.shift && within 500 5000 t.spinDown && within 500 5000 t.release &&
  within 300 1200 t.disengageSpeed && within 5 100 t.debounce

def ratesValid (r : Rates) : Bool :=
  within 1 64 r.q && within 100 1000 r.gate && within 1000 60000 r.pulsesPerKm &&
  within 20 1000 r.reportInterval && within 2 250 r.scanPeriod

def fillItemsValid (f : FillItems) : Bool :=
  within 1 60 f.timeoutMin && within 10 120 f.stallSec && within 5 100 f.minRise

/-- R129, R158: 1 to 12 channel numbers, channel 0 among them. -/
def scanListValid (l : List Nat) : Bool :=
  within 1 12 l.length && l.all (fun ch => decide (ch ≤ 7)) && l.contains 0

/-- R131. -/
def calibrationValid (k : Calibration) : Bool :=
  within 0 4095 k.offset && within 0 4095 k.gain && within 0 4095 k.hi && decide (k.lo ≤ k.hi)

/-- The numbers rise strictly. -/
def strictlyRising : List Nat → Bool
  | [] => true
  | [_] => true
  | a :: b :: rest => decide (a < b) && strictlyRising (b :: rest)

/-- R97, R158: nine points, levels in 0..2000 mm, volumes in the range of section "Units and
ranges", levels and volumes strictly increasing. -/
def strapValid (table : List StrapPoint) : Bool :=
  decide (table.length = 9) &&
  table.all (fun q => decide (q.level ≤ 2000) && decide (q.volume ≤ 65535)) &&
  strictlyRising (table.map StrapPoint.level) && strictlyRising (table.map StrapPoint.volume)

/-- R144: exactly one port holds SPEED_SOURCE. -/
def oneSpeedSource (r : PerPort RightSet) : Bool :=
  decide (bit (holdsRight r.chassis .speedSource) + bit (holdsRight r.cab .speedSource) +
    bit (holdsRight r.panel .speedSource) = 1)

/-- R29: ranks in 0..15, the non-zero ones distinct. -/
def ranksValid (r : PerPort Nat) : Bool :=
  within 0 15 r.chassis && within 0 15 r.cab && within 0 15 r.panel &&
  (r.chassis == 0 || (r.chassis != r.cab && r.chassis != r.panel)) &&
  (r.cab == 0 || r.cab != r.panel)

def gainsValid (g : Gains) : Bool :=
  within 0 255 g.kpPressure && within 0 255 g.kiPressure && within 0 255 g.kpSpeed &&
  within 0 255 g.kiSpeed && within 1 100 g.slew && within 100 1000 g.ceiling

def govDefaultsValid (g : GovDefaults) : Bool :=
  within 200 2400 g.pressure && within 600 3000 g.speed && within 5 100 g.hysteresis &&
  decide (-60 ≤ g.floor) && decide (g.floor ≤ 200)

def fixedRowItemsValid (f : FixedRowItems) : Bool :=
  within 10 150 f.rollLimit && within 1000 3500 f.pMax && within 0 60000 f.hold2 &&
  within 0 60000 f.hold3 && within 0 60000 f.hold6 && within 0 60000 f.hold9 &&
  within 0 60000 f.hold10

/-- R99: EMPTY < LOW < FULL. -/
def thresholdsValid (t : TankThresholds) : Bool :=
  decide (t.empty < t.low) && decide (t.low < t.full) && within 0 65535 t.full &&
  within 0 1000 t.hv

def tolerancesValid (t : Tolerances) : Bool := within 10 100 t.speed && within 10 200 t.gauge

/-- The bits of a subscription mask that a port's mask can hold (R150, section 11.1): the kinds
1, 3 to 8 and 10. -/
def subscriptionBits : Word := 0x05FA

def subscriptionValid (w : Word) : Bool := w &&& subscriptionBits == w

/-- The value of an INTAKE bound fits its word, signed; any other bound fits it unsigned (R41). -/
def boundFits (source : Source) (v : Int) : Bool :=
  if source = .intake then decide (-32768 ≤ v) && decide (v ≤ 32767)
  else decide (0 ≤ v) && decide (v ≤ 65535)

/-- The record of programmable row `index` is one that WRITE_ROW accepts (R64). -/
def programmableValid (index : Nat) (r : RowRecord) : Bool :=
  rowValid index r && boundFits r.source r.lo && boundFits r.source r.hi

/-- The records of rows `index` and on are valid. -/
def programmablesValid : Nat → List RowRecord → Bool
  | _, [] => true
  | index, r :: rest => programmableValid index r && programmablesValid (index + 1) rest

/-- Every value of the configuration lies in its range and the values are consistent
(R156 to R158, R63, R64): what a working configuration can be. -/
def configValid (c : WorkingConfig) : Bool :=
  gainsValid c.gains && govDefaultsValid c.govDefaults && fixedRowItemsValid c.fixedRows &&
  thresholdsValid c.tank0 && thresholdsValid c.tank1 && tolerancesValid c.tolerances &&
  timingValid c.timing && ratesValid c.rates && fillItemsValid c.fillItems &&
  scanListValid c.scanList && decide (c.calibration.length = 8) &&
  c.calibration.all calibrationValid && strapValid c.strap0 && strapValid c.strap1 &&
  oneSpeedSource c.rights && ranksValid c.ranks && subscriptionValid c.subscriptions.chassis &&
  subscriptionValid c.subscriptions.cab && subscriptionValid c.subscriptions.panel &&
  decide (c.rows.length = 12) && programmablesValid 12 c.rows

/-! ### Values of a part from its words -/

/-- Value word `n` of a write as a number. -/
def valueAt (ws : List Word) (n : Nat) : Nat := (ws.getD n 0).toNat

def gainsOfWords (ws : List Word) : Gains :=
  ⟨valueAt ws 0, valueAt ws 1, valueAt ws 2, valueAt ws 3, valueAt ws 4, valueAt ws 5⟩

/-- R164: F is read signed. -/
def govDefaultsOfWords (ws : List Word) : GovDefaults :=
  ⟨valueAt ws 0, valueAt ws 1, (ws.getD 2 0).toInt, valueAt ws 3⟩

def fixedRowItemsOfWords (ws : List Word) : FixedRowItems :=
  ⟨valueAt ws 0, valueAt ws 1, valueAt ws 2, valueAt ws 3, valueAt ws 4, valueAt ws 5,
    valueAt ws 6⟩

def thresholdsOfWords (ws : List Word) : TankThresholds :=
  ⟨valueAt ws 0, valueAt ws 1, valueAt ws 2, valueAt ws 3⟩

def tolerancesOfWords (ws : List Word) : Tolerances := ⟨valueAt ws 0, valueAt ws 1⟩

def timingOfWords (ws : List Word) : Timing :=
  ⟨valueAt ws 0, valueAt ws 1, valueAt ws 2, valueAt ws 3, valueAt ws 4⟩

def ratesOfWords (ws : List Word) : Rates :=
  ⟨valueAt ws 0, valueAt ws 1, valueAt ws 2, valueAt ws 3, valueAt ws 4⟩

/-- None when the supply default names no supply or ROLL_ENABLED is neither no nor yes (R164). -/
def fillItemsOfWords (ws : List Word) : Option FillItems :=
  match supplyOfCode (valueAt ws 3) with
  | some x =>
    if valueAt ws 4 ≤ 1 then
      some ⟨valueAt ws 0, valueAt ws 1, valueAt ws 2, x, valueAt ws 4 == 1⟩
    else none
  | none => none

def calibrationOfWords (ws : List Word) : Calibration :=
  ⟨valueAt ws 0, valueAt ws 1, valueAt ws 2, valueAt ws 3⟩

/-- The three points of a part of a strapping table. -/
def pointsOfWords (ws : List Word) : List StrapPoint :=
  [⟨valueAt ws 0, valueAt ws 1⟩, ⟨valueAt ws 2, valueAt ws 3⟩, ⟨valueAt ws 4, valueAt ws 5⟩]

/-- The scan list of the two parts' words: length, entries 1 to 6; entries 7 to 12 (R156).  A length
above 12, which only an image that R160 never wrote can hold, gives the twelve entries there are
(DESIGN CHOICE, log entry 4). -/
def scanListOfWords (part0 part1 : List Word) : List Nat :=
  (((part0.drop 1).take 6 ++ part1.take 6).map BitVec.toNat).take (valueAt part0 0)

/-- The rights of item 13; the unused bits are ignored (R164). -/
def rightsOfWords (ws : List Word) : PerPort RightSet :=
  ⟨(ws.getD 0 0).setWidth 7, (ws.getD 1 0).setWidth 7, (ws.getD 2 0).setWidth 7⟩

def ranksOfWords (ws : List Word) : PerPort Nat := ⟨valueAt ws 3, valueAt ws 4, valueAt ws 5⟩

/-- The masks of item 14; the bits that stand for no subscribed kind are ignored (section 11.1). -/
def subscriptionsOfWords (ws : List Word) : PerPort Word :=
  ⟨ws.getD 0 0 &&& subscriptionBits, ws.getD 1 0 &&& subscriptionBits,
    ws.getD 2 0 &&& subscriptionBits⟩

/-! ### The image's words (R160) -/

/-- The items and parts in ascending order. -/
def imageParts : List (Nat × Nat) :=
  [(1, 0), (2, 0), (3, 0), (4, 0), (4, 1), (5, 0), (6, 0), (7, 0), (8, 0), (9, 0), (9, 1),
    (10, 0), (10, 1), (10, 2), (10, 3), (10, 4), (10, 5), (10, 6), (10, 7),
    (11, 0), (11, 1), (11, 2), (12, 0), (12, 1), (12, 2), (13, 0), (14, 0)]

/-- R160: the image's words: the parts in ascending order, then the rows' record words. -/
def imageWords (c : WorkingConfig) : List Word :=
  imageParts.flatMap (fun ip => partWords c ip.1 ip.2) ++ c.rows.flatMap rowWords

/-- The sum of the words modulo 2^16 (R160). -/
def wordSum (ws : List Word) : Word := ws.foldl (· + ·) 0

/-- The seven words of the image's part number `k`, counted from 0. -/
def imagePart (ws : List Word) (k : Nat) : List Word := (ws.drop (7 * k)).take 7

/-- The records of the rows' words, none when one of them spells no record. -/
def rowsOfWords : Nat → List Word → Option (List RowRecord)
  | 0, _ => some []
  | n + 1, ws =>
    match rowOfWords (ws.take 6), rowsOfWords n (ws.drop 6) with
    | some r, some rest => some (r :: rest)
    | _, _ => none

/-- The working configuration that an image's words spell, its item 8 and its rows being those
given. -/
def configFields (ws : List Word) (fillItems : FillItems) (rows : List RowRecord) : WorkingConfig :=
  { gains := gainsOfWords (imagePart ws 0)
    govDefaults := govDefaultsOfWords (imagePart ws 1)
    fixedRows := fixedRowItemsOfWords (imagePart ws 2)
    tank0 := thresholdsOfWords (imagePart ws 3)
    tank1 := thresholdsOfWords (imagePart ws 4)
    tolerances := tolerancesOfWords (imagePart ws 5)
    timing := timingOfWords (imagePart ws 6)
    rates := ratesOfWords (imagePart ws 7)
    fillItems := fillItems
    scanList := scanListOfWords (imagePart ws 9) (imagePart ws 10)
    calibration := [11, 12, 13, 14, 15, 16, 17, 18].map
      (fun k => calibrationOfWords (imagePart ws k))
    strap0 := [19, 20, 21].flatMap (fun k => pointsOfWords (imagePart ws k))
    strap1 := [22, 23, 24].flatMap (fun k => pointsOfWords (imagePart ws k))
    rights := rightsOfWords (imagePart ws 25)
    ranks := ranksOfWords (imagePart ws 25)
    subscriptions := subscriptionsOfWords (imagePart ws 26)
    rows := rows }

/-- The working configuration that an image's words spell, none when they are not the words that
R160 writes of any valid one. -/
def configOfWords (ws : List Word) : Option WorkingConfig :=
  match fillItemsOfWords (imagePart ws 8), rowsOfWords 12 (ws.drop 189) with
  | some fillItems, some rows =>
    let c := configFields ws fillItems rows
    if configValid c && imageWords c == ws then some c else none
  | _, _ => none

/-! ### What a load makes of an image that checks good (R162) -/

/-- Item 8 as the load takes it; a code that names no value gives a free value (log entry 4). -/
def fillItemsOfImage (ws : List Word) : FillItems :=
  ⟨valueAt ws 0, valueAt ws 1, valueAt ws 2,
    (supplyOfCode (valueAt ws 3)).getD (Config.unstatedSupply (valueAt ws 3)),
    if valueAt ws 4 ≤ 1 then valueAt ws 4 == 1 else Config.unstatedFlag (valueAt ws 4)⟩

/-- A row's record as the load takes it; a code that names no value gives a free value (log
entry 4). -/
def rowOfImage (ws : List Word) : RowRecord :=
  let w1 := ws.getD 0 0
  rowFields
    ((sourceOfCode (fieldOf w1 0 5)).getD (Config.unstatedSource (fieldOf w1 0 5)))
    ((comparisonOfCode (fieldOf w1 10 3)).getD (Config.unstatedComparison (fieldOf w1 10 3)))
    w1 (ws.getD 1 0) (ws.getD 2 0) (ws.getD 3 0) (ws.getD 4 0) (ws.getD 5 0)

/-- The records of `n` rows as the load takes them. -/
def rowsOfImage : Nat → List Word → List RowRecord
  | 0, _ => []
  | n + 1, ws => rowOfImage (ws.take 6) :: rowsOfImage n (ws.drop 6)

/-- R162: the working configuration becomes the image, value by value, whatever its words hold: a
number is taken as it stands and a word that no value uses is not read.  For the words that R160
writes of a valid configuration this is that configuration (`configOfImage_of_configOfWords`). -/
def configOfImage (ws : List Word) : WorkingConfig :=
  configFields ws (fillItemsOfImage (imagePart ws 8)) (rowsOfImage 12 (ws.drop 189))

end Sys2Proof.Machine
end

