-- ==== Sys2Proof/Machine/Units.lean ====
section
/-! DEFINITION. The types of the records that the ten units hold (00_scope.md, "Block Overview"). -/

namespace Sys2Proof.Machine

/-! ### Timers -/

/-- A running timer: the time base when it started and its length in ms.  It expires at
`start + length`; differences are taken modulo 2^32 (00_scope.md, "Time"). -/
structure Timer where
  start : Count32
  length : Nat
  deriving DecidableEq, Repr

/-! ### SEQ -/

/-- The eight apparatus modes (R1). -/
inductive Mode where
  | init
  | road
  | parked
  | shiftingIn
  | pump
  | roll
  | disengaging
  | stuck
  deriving DecidableEq, Repr, Inhabited

/-- The sub-stages of DISENGAGING (R1). -/
inductive SubStage where
  | spinDown
  | release
  deriving DecidableEq, Repr

/-- The change reasons (R3). -/
inductive Reason where
  | start
  | request
  | condition
  | block
  | feedbackLost
  | timeout
  deriving DecidableEq, Repr

/-- The kinds of an open request (R30). -/
inductive OperationKind where
  | engage
  | disengage
  deriving DecidableEq, Repr

/-- The outcomes of an open request (R37). -/
inductive Ending where
  | completed
  | superseded
  | timedOut
  | aborted
  | failed
  deriving DecidableEq, Repr

/-- The open request record (R30). -/
structure OpenRequest where
  requester : Port
  kind : OperationKind
  taken : Count32
  deriving DecidableEq, Repr

/-- SEQ: the mode record (R1), the open request (R30), the start-up wait (R5), the three timers
(R8), the block set last handed to it (R56) and its two commands (R25, R26). -/
structure SeqUnit where
  mode : Mode
  sub : Option SubStage
  reason : Reason
  request : Option OpenRequest
  startWait : Option Timer
  shiftTimer : Option Timer
  spinLimit : Option Timer
  releaseTimer : Option Timer
  blocks : BlockSet
  ptoShift : Bool
  pumpReady : Bool
  deriving DecidableEq, Repr

/-! ### LKT -/

/-- The six row states (section 3.4). -/
inductive RowState where
  | off
  | wait
  | clear
  | holding
  | active
  | latched
  deriving DecidableEq, Repr, Inhabited

/-- A row's state and its hold timer (R40). -/
structure RowSlot where
  state : RowState
  timer : Option Timer
  deriving DecidableEq, Repr

/-- What LKT keeps of a source (section 3.2): its latest value, none while it is unvalued, and its
last good value (R43). -/
structure SourceSlot where
  latest : Option Int
  lastGood : Option Int
  deriving DecidableEq, Repr

/-- LKT: the 24 rows, the seventeen sources in the order of their codes, the table lock (R66), the
mode last handed to it (R47), the block set (R56) and the DRIVE_PERMIT command (R58). -/
structure LktUnit where
  rows : List RowSlot
  sources : List SourceSlot
  lock : Option Port
  mode : Mode
  blocks : BlockSet
  drivePermit : Bool
  deriving DecidableEq, Repr

/-! ### GOV -/

/-- The governing modes (R70). -/
inductive GoverningMode where
  | pressure
  | speed
  deriving DecidableEq, Repr

/-- The states of intake protection (section 4.5). -/
inductive IntakeWatch where
  | off
  | watching
  | low
  | suspended
  deriving DecidableEq, Repr

/-- GOV: the governor record (R70), and the mode, block set and supply last handed to it
(R72, R74, R81). -/
structure GovUnit where
  governing : GoverningMode
  sp : Nat
  sn : Nat
  d : Nat
  ePrev : Int
  cIntake : Nat
  c : Nat
  watch : IntakeWatch
  faultMark : Bool
  lastIntake : Int
  mode : Mode
  blocks : BlockSet
  supply : Supply
  deriving DecidableEq, Repr

/-! ### TNK -/

/-- The tank states (R42). -/
inductive TankState where
  | unknown
  | empty
  | low
  | normal
  | full
  deriving DecidableEq, Repr

/-- The reasons for which a fill ends (R109). -/
inductive FillEnding where
  | reached
  | full
  | stopped
  | timedOut
  | stalled
  | blocked
  | mode
  | unknown
  deriving DecidableEq, Repr

/-- A gauge's reading and its mark (R89). -/
structure Reading where
  level : Option Int
  good : Bool
  deriving DecidableEq, Repr

/-- A tank record (R89): combined level, filtered level, volume, state. -/
structure Tank where
  l : Option Int
  lf : Option Int
  v : Option Int
  state : TankState
  deriving DecidableEq, Repr

/-- The fill record (R104), its two timers (R105) and whether its stall check is suspended
(R108). -/
structure Fill where
  requester : Port
  target : Nat
  start : Count32
  riseLevel : Int
  riseTime : Count32
  timeout : Timer
  stall : Option Timer
  suspended : Bool
  deriving DecidableEq, Repr

/-- TNK: readings, tank records, the disagreement episode (R92), the supply (R101), the fill, the
valve commands (R102, R104), and the mode and block set last handed to it. -/
structure TnkUnit where
  front : Reading
  centre : Reading
  rear : Reading
  second : Reading
  tank0 : Tank
  tank1 : Tank
  episode : Bool
  supply : Supply
  fill : Option Fill
  tankValve : Bool
  fillValve : Bool
  mode : Mode
  blocks : BlockSet
  deriving DecidableEq, Repr

/-! ### SPD -/

/-- The transmission states (R42). -/
inductive Transmission where
  | unknown
  | neutral
  | lowRange
  | drive
  | reverse
  deriving DecidableEq, Repr

/-- Whether the speed source is heard (R112). -/
inductive Freshness where
  | fresh
  | stale
  deriving DecidableEq, Repr

/-- The comparison of reported and measured speed (R112). -/
inductive Disagreement where
  | agree
  | differing
  | disagree
  deriving DecidableEq, Repr

/-- The speed qualities (R112). -/
inductive Quality where
  | good
  | degraded
  deriving DecidableEq, Repr

/-- The last report (R112). -/
structure SpeedReport where
  speed : Nat
  transmission : Transmission
  engine : Bool
  arrival : Count32
  sender : Port
  deriving DecidableEq, Repr

/-- SPD: the speed record (R112).  The quality and its cause are given by the freshness and the
disagreement at every moment (R112), so they are computed: `quality`, `degradedCause`. -/
structure SpdUnit where
  report : Option SpeedReport
  freshness : Freshness
  staleTimer : Option Timer
  measured : Nat
  disagreement : Disagreement
  disTimer : Option Timer
  value : Nat
  transmission : Transmission
  deriving DecidableEq, Repr

/-! ### CNV -/

/-- A channel record (R128). -/
structure Channel where
  value : Int
  goodTaken : Bool
  faulted : Bool
  run : Nat
  deriving DecidableEq, Repr

/-- CNV: the channel records 0 to 7, the entries of the scan still to convert (the first is in
conversion), when that conversion began on the microsecond count, and the scan period timer
(R129). -/
structure CnvUnit where
  channels : List Channel
  toConvert : List Nat
  begun : Count32
  scanPeriod : Option Timer
  deriving DecidableEq, Repr

/-! ### LIO -/

/-- What LIO holds of a discrete input (R122). -/
structure InputSlot where
  raw : Bool
  debounced : Bool
  timer : Option Timer
  deriving DecidableEq, Repr

/-- The four discrete inputs. -/
structure Inputs where
  parkBrake : InputSlot
  neutralSense : InputSlot
  ptoFeedback : InputSlot
  panelStop : InputSlot
  deriving DecidableEq, Repr

/-- The THROTTLE line's pulse-width modulation (R136): the duty commanded, the duty that bounds the
present period's high part, and the microsecond count at which the period started. -/
structure Throttle where
  commanded : Nat
  inForce : Nat
  periodStart : Option Count32
  deriving DecidableEq, Repr

/-- LIO: inputs, settle interval and whether the word has been published (R122, R124), pump tach
(R125), road pulse gate (R127), THROTTLE line (R136). -/
structure LioUnit where
  inputs : Inputs
  settle : Option Timer
  published : Bool
  np : Nat
  prevEdge : Option Count32
  silence : Option Timer
  gate : Option Timer
  gateCount : Nat
  throttle : Throttle
  deriving DecidableEq, Repr

/-! ### CFG -/

/-- A staging record (R158): the item, the next part expected, the value words received so far. -/
structure Staging where
  item : Nat
  next : Nat
  words : List (List Word)
  deriving DecidableEq, Repr

/-- The stored image (R160): its words and its checksum.  `whole` is clear when a store was
abandoned by a reset, which leaves the image "partly written" (R161). -/
structure Image where
  words : List Word
  checksum : Word
  whole : Bool
  deriving DecidableEq, Repr

/-- CFG: the working configuration, none while a reset has emptied it (R162), the staging records,
the image, the CONFIG_INVALID flag and the store-busy state. -/
structure CfgUnit where
  working : Option WorkingConfig
  staging : PerPort (Option Staging)
  image : Image
  configInvalid : Bool
  storeBusy : Bool
  deriving DecidableEq, Repr

/-! ### NTQ -/

/-- The notice kinds (R149). -/
inductive NoticeKind where
  | modeChanged
  | requestOutcome
  | rowState
  | tankState
  | fillEnded
  | sensor
  | governor
  | speedQuality
  | note
  | configStored
  deriving DecidableEq, Repr

/-- A notice record (R149). -/
structure Notice where
  kind : NoticeKind
  subject : BitVec 8
  value : Word
  stamp : Word
  deriving DecidableEq, Repr

/-- To whom a notice is addressed (R150). -/
inductive Addressee where
  | subscribers
  | only (p : Port)
  | subscribersAnd (p : Port)
  deriving DecidableEq, Repr

/-- The reset causes (R154), in their priority order. -/
inductive ResetCause where
  | supplyStart
  | resetLine
  | configDefaulted
  | ptoFoundEngaged
  deriving DecidableEq, Repr

/-- A reset cause set (R154), one flag for each member it may have. -/
structure CauseSet where
  supplyStart : Bool
  resetLine : Bool
  configDefaulted : Bool
  ptoFoundEngaged : Bool
  deriving DecidableEq, Repr

/-- What NTQ holds for a port: its queue, oldest first, its lost count and its reset cause set. -/
structure NtqPort where
  queue : List Notice
  lost : Nat
  causes : CauseSet
  deriving DecidableEq, Repr

/-! ### LNK -/

/-- The seventeen requests (R146). -/
inductive RequestKind where
  | readStatus
  | readRow
  | readNotice
  | readResetCause
  | readConfig
  | reportSpeed
  | requestMode
  | setGovernor
  | postNote
  | selectSupply
  | fillStart
  | fillStop
  | ackRow
  | writeRow
  | lockTable
  | writeConfig
  | storeConfig
  deriving DecidableEq, Repr

/-- The result codes (section 8.6). -/
inductive Result where
  | ok
  | clamped
  | taken
  | busy
  | blocked
  | condition
  | noRight
  | badArgument
  | locked
  | faulted
  deriving DecidableEq, Repr

/-- An answer (R142). -/
structure Answer where
  request : RequestKind
  result : Result
  data : List Word
  deriving DecidableEq, Repr

/-- The link states (R138). -/
inductive LinkState where
  | idle
  | receiving
  | preparing
  deriving DecidableEq, Repr

/-- A header as received (R139). -/
structure Header where
  kind : Nat
  count : Nat
  deriving DecidableEq, Repr

/-- A request in preparation (R139): handed to its owner, or answered by it and not yet complete at
the link. -/
inductive Preparation where
  | asked (kind : RequestKind) (args : List Word)
  | answered (a : Answer)
  deriving DecidableEq, Repr

/-- The link record (R138), the request in preparation (R139), the level of the select line and the
word last clocked out. -/
structure Link where
  state : LinkState
  words : Nat
  header : Option Header
  args : List Word
  discard : Bool
  outgoing : Option (List Word)
  answer : Option Answer
  frameError : Bool
  preparation : Option Preparation
  selectLow : Bool
  wordOut : Word
  deriving DecidableEq, Repr

/-! ### Hand-overs -/

/-- The ten units (00_scope.md, "Block Overview"). -/
inductive UnitName where
  | lnk
  | ntq
  | seq
  | lkt
  | gov
  | tnk
  | spd
  | cnv
  | lio
  | cfg
  deriving DecidableEq, Repr

/-- What one unit hands another ("Signal paths" of 00_scope.md).  Hand-overs from one unit to
another are taken in the order handed; otherwise in any order (log entry 2). -/
inductive Handover where
  /-- A notice to NTQ (R151). -/
  | notice (sender : UnitName) (n : Notice) (dest : Addressee)
  /-- LIO publishes the input word to SEQ (R124). -/
  | wordToSeq (word : Nat)
  /-- The end of a release that SEQ found clear at the shift timer's expiry (R20, R21, R32). -/
  | releaseToSeq
  /-- SPD hands SEQ a changed value or quality (R121). -/
  | speedToSeq
  /-- LIO publishes the pump speed to SEQ (R125). -/
  | pumpToSeq (np : Nat)
  /-- LKT hands on the block set (R56). -/
  | blocksToSeq (b : BlockSet)
  | blocksToGov (b : BlockSet)
  | blocksToTnk (b : BlockSet)
  /-- An arrival of a source at LKT (R42). -/
  | arrival (sender : UnitName) (source : Source) (v : Option Int)
  /-- SEQ hands on a mode transition (R48, R73, R102). -/
  | modeToLkt (new : Mode)
  | modeToGov (new : Mode)
  | modeToTnk (new : Mode)
  /-- CNV hands on a conversion (R134). -/
  | dischargeToGov (v : Int) (faulted : Bool)
  | intakeToGov (v : Int) (faulted : Bool)
  | levelToTnk (channel : Nat) (v : Int) (faulted : Bool)
  /-- TNK hands on a change of supply (R101). -/
  | supplyToGov (x : Supply)
  deriving DecidableEq, Repr

/-- Whether the part is held by the RESET line (low), in its start-up load, or past it
(R162, R163). -/
inductive Phase where
  | held
  | loading
  | running
  deriving DecidableEq, Repr

end Sys2Proof.Machine
end

