-- ==== Sys2Proof/Machine/ResetValues.lean ====
section
/-! DEFINITION. The reset value of each unit's record. -/

namespace Sys2Proof.Machine

/-! ### Reset values -/

/-- SEQ at reset: R1, R4. -/
def resetSeq : SeqUnit :=
  { mode := .init, sub := none, reason := .start, request := none, startWait := none
    shiftTimer := none, spinLimit := none, releaseTimer := none, blocks := 0
    ptoShift := false, pumpReady := false }

/-- The value each source holds after reset (R42); the two that come from the start-up load take
their values at its end (R69), and until then those of the factory configuration. -/
def resetSources (supply : Supply) (configInvalid : Bool) : List SourceSlot :=
  [⟨some 0, none⟩, ⟨some 0, none⟩, ⟨none, none⟩, ⟨none, none⟩, ⟨none, none⟩, ⟨none, none⟩,
    ⟨some 0, none⟩, ⟨some 0, none⟩, ⟨none, none⟩, ⟨none, none⟩, ⟨none, none⟩, ⟨some 0, none⟩,
    ⟨some 1, none⟩, ⟨some (supplyCode supply), none⟩, ⟨some 0, none⟩,
    ⟨some (bit configInvalid), none⟩, ⟨some 0, none⟩]

/-- LKT at reset (R58, R67, R69).  Until the table placement the rows are OFF and the block set
is empty: DESIGN CHOICE, log entry 6. -/
def resetLkt : LktUnit :=
  { rows := List.replicate 24 ⟨.off, none⟩, sources := resetSources .tank false, lock := none
    mode := .init, blocks := 0, drivePermit := false }

/-- GOV at reset (R70).  The fields that the start-up load gives hold the factory values until its
end: DESIGN CHOICE, log entry 6. -/
def resetGov : GovUnit :=
  { governing := .pressure, sp := 1000, sn := 1200, d := 0, ePrev := 0, cIntake := 1000, c := 1000
    watch := .off, faultMark := false, lastIntake := 0, mode := .init, blocks := 0
    supply := .tank }

/-- A tank record at reset (R89). -/
def resetTank : Tank := { l := none, lf := none, v := none, state := .unknown }

/-- TNK at reset (R89, R111); the supply is the factory default until the load ends (R101). -/
def resetTnk : TnkUnit :=
  { front := ⟨none, false⟩, centre := ⟨none, false⟩, rear := ⟨none, false⟩
    second := ⟨none, false⟩, tank0 := resetTank, tank1 := resetTank, episode := false
    supply := .tank, fill := none, tankValve := false, fillValve := false, mode := .init
    blocks := 0 }

/-- SPD at reset (R112). -/
def resetSpd : SpdUnit :=
  { report := none, freshness := .stale, staleTimer := none, measured := 0
    disagreement := .agree, disTimer := none, value := 0, transmission := .unknown }

/-- CNV at reset (R128). -/
def resetCnv : CnvUnit :=
  { channels := List.replicate 8 ⟨0, false, false, 0⟩, toConvert := [], begun := 0
    scanPeriod := none }

/-- A discrete input at reset: its levels are "taken from no sample" (R122) and held as clear until
the first sample: DESIGN CHOICE, log entry 6. -/
def resetInput : InputSlot := ⟨false, false, none⟩

/-- LIO at reset (R122, R125, R127, R135). -/
def resetLio : LioUnit :=
  { inputs := ⟨resetInput, resetInput, resetInput, resetInput⟩, settle := none, published := false
    np := 0, prevEdge := none, silence := none, gate := none, gateCount := 0
    throttle := ⟨0, 0, none⟩ }

/-- A link at reset (R138), its select line at the level given. -/
def resetLink (selectLow : Bool) : Link :=
  { state := .idle, words := 0, header := none, args := [], discard := false, outgoing := none
    answer := none, frameError := false, preparation := none, selectLow := selectLow
    wordOut := 0 }

/-- A port's part of NTQ at a reset of the given cause (R149, R154). -/
def resetNtq (cause : ResetCause) : NtqPort :=
  { queue := [], lost := 0
    causes := ⟨decide (cause = .supplyStart), decide (cause = .resetLine), false, false⟩ }

/-- The image that the part holds before any store: the factory configuration with its checksum.
DESIGN CHOICE, log entry 7. -/
def factoryImage : Image :=
  { words := imageWords factory, checksum := wordSum (imageWords factory), whole := true }

end Sys2Proof.Machine
end

