-- ==== Sys2Proof/Machine/State.lean ====
section
/-! DEFINITION. The state of the RVT316, unit by unit (00_scope.md, "Block Overview"), and its reset. -/

namespace Sys2Proof.Machine

/-! ### The whole part -/

/-- The state of the part: the reset phase, the time base with the microseconds since its last
count, LIO's microsecond count, the ten units (LNK and NTQ by port), the hand-overs under way, and
the commands waiting, first in, first out. -/
structure State where
  phase : Phase
  timeBase : Count32
  usPhase : Nat
  usCount : Count32
  seq : SeqUnit
  lkt : LktUnit
  gov : GovUnit
  tnk : TnkUnit
  spd : SpdUnit
  cnv : CnvUnit
  lio : LioUnit
  cfg : CfgUnit
  ntq : PerPort NtqPort
  links : PerPort Link
  hand : List Handover
  pending : List Instr
  deriving DecidableEq, Repr

/-! ### Stops -/

/-- The faults of the part: none.  The spec gives every step an effect in every state. -/
inductive Fault where
  deriving DecidableEq, Repr

/-- The refusals of the part. -/
inductive Refusal where
  /-- Raised by `exec` for a row of the table that has no meaning here; safe, since the model then
  says nothing of it.  No row of this model is refused so. -/
  | notModelled (mnemonic : String)
  deriving DecidableEq, Repr

/-- The part with every record at its reset value (R163), the image as it stands and the select
lines at the levels given. -/
def freshState (phase : Phase) (cause : ResetCause) (image : Image) (selects : PerPort Bool) :
    State :=
  { phase := phase, timeBase := 0, usPhase := 0, usCount := 0, seq := resetSeq, lkt := resetLkt
    gov := resetGov, tnk := resetTnk, spd := resetSpd, cnv := resetCnv, lio := resetLio
    cfg := { working := none, staging := samePorts none, image := image, configInvalid := false
             storeBusy := false }
    ntq := samePorts (resetNtq cause)
    links := ⟨resetLink selects.chassis, resetLink selects.cab, resetLink selects.panel⟩
    hand := [], pending := [] }

/-- The part right after a supply start (R163): every record at its reset value, the start-up load
begun, SUPPLY_START in every reset cause set, every select line high. -/
def State.reset : State := freshState .loading .supplyStart factoryImage (samePorts false)

end Sys2Proof.Machine
end

