-- ==== Sys2Proof/Machine/Flags.lean ====
section
/-! DEFINITION. Codes of the records (section 11.1), mode masks, and the marks that follow from others. -/

namespace Sys2Proof.Machine

/-- Section 11.1. -/
def modeCode : Mode → Nat
  | .init => 0
  | .road => 1
  | .parked => 2
  | .shiftingIn => 3
  | .pump => 4
  | .roll => 5
  | .disengaging => 6
  | .stuck => 7

/-- Section 11.1: absent 0, SPIN_DOWN 1, RELEASE 2. -/
def subStageCode : Option SubStage → Nat
  | none => 0
  | some .spinDown => 1
  | some .release => 2

/-- Section 11.1. -/
def reasonCode : Reason → Nat
  | .start => 0
  | .request => 1
  | .condition => 2
  | .block => 3
  | .feedbackLost => 4
  | .timeout => 5

/-- Section 11.1: the REQUEST_MODE kinds ENGAGE 0 and DISENGAGE 3. -/
def operationCode : OperationKind → Nat
  | .engage => 0
  | .disengage => 3

/-- Section 11.1. -/
def endingCode : Ending → Nat
  | .completed => 0
  | .superseded => 1
  | .timedOut => 2
  | .aborted => 3
  | .failed => 4

/-- Section 11.1. -/
def rowStateCode : RowState → Nat
  | .off => 0
  | .wait => 1
  | .clear => 2
  | .holding => 3
  | .active => 4
  | .latched => 5

/-- Section 11.1: PRESSURE 1, SPEED 2. -/
def governingCode : GoverningMode → Nat
  | .pressure => 1
  | .speed => 2

/-- Section 11.1. -/
def watchCode : IntakeWatch → Nat
  | .off => 0
  | .watching => 1
  | .low => 2
  | .suspended => 3

/-- R42. -/
def tankStateCode : TankState → Nat
  | .unknown => 0
  | .empty => 1
  | .low => 2
  | .normal => 3
  | .full => 4

/-- Section 11.1. -/
def fillEndingCode : FillEnding → Nat
  | .reached => 0
  | .full => 1
  | .stopped => 2
  | .timedOut => 3
  | .stalled => 4
  | .blocked => 5
  | .mode => 6
  | .unknown => 7

/-- R42. -/
def transmissionCode : Transmission → Nat
  | .unknown => 0
  | .neutral => 1
  | .lowRange => 2
  | .drive => 3
  | .reverse => 4

/-- The transmission of a code, none above 4 (R113). -/
def transmissionOfCode : Nat → Option Transmission
  | 0 => some .unknown
  | 1 => some .neutral
  | 2 => some .lowRange
  | 3 => some .drive
  | 4 => some .reverse
  | _ => none

/-- Section 11.1: FRESH 0, STALE 1. -/
def freshnessCode : Freshness → Nat
  | .fresh => 0
  | .stale => 1

/-- Section 11.1. -/
def disagreementCode : Disagreement → Nat
  | .agree => 0
  | .differing => 1
  | .disagree => 2

/-- R42: GOOD 0, DEGRADED 1. -/
def qualityCode : Quality → Nat
  | .good => 0
  | .degraded => 1

/-- Section 11.1. -/
def resultCode : Result → Nat
  | .ok => 0
  | .clamped => 1
  | .taken => 2
  | .busy => 3
  | .blocked => 4
  | .condition => 5
  | .noRight => 6
  | .badArgument => 7
  | .locked => 8
  | .faulted => 9

/-- Section 11.1; NONE is 0. -/
def noticeCode : NoticeKind → Nat
  | .modeChanged => 1
  | .requestOutcome => 2
  | .rowState => 3
  | .tankState => 4
  | .fillEnded => 5
  | .sensor => 6
  | .governor => 7
  | .speedQuality => 8
  | .note => 9
  | .configStored => 10

/-- Section 11.1; NONE is 0. -/
def causeCode : ResetCause → Nat
  | .supplyStart => 1
  | .resetLine => 2
  | .configDefaulted => 3
  | .ptoFoundEngaged => 4

/-- Section 11.2. -/
def requestCode : RequestKind → Nat
  | .readStatus => 1
  | .readRow => 2
  | .readNotice => 3
  | .readResetCause => 4
  | .readConfig => 5
  | .reportSpeed => 6
  | .requestMode => 7
  | .setGovernor => 8
  | .postNote => 9
  | .selectSupply => 10
  | .fillStart => 11
  | .fillStop => 12
  | .ackRow => 13
  | .writeRow => 14
  | .lockTable => 15
  | .writeConfig => 16
  | .storeConfig => 17

/-- The request of a header's kind code: the catalogue of R146 by the codes of section 11.2. -/
def requestOfCode : Nat → Option RequestKind
  | 1 => some .readStatus
  | 2 => some .readRow
  | 3 => some .readNotice
  | 4 => some .readResetCause
  | 5 => some .readConfig
  | 6 => some .reportSpeed
  | 7 => some .requestMode
  | 8 => some .setGovernor
  | 9 => some .postNote
  | 10 => some .selectSupply
  | 11 => some .fillStart
  | 12 => some .fillStop
  | 13 => some .ackRow
  | 14 => some .writeRow
  | 15 => some .lockTable
  | 16 => some .writeConfig
  | 17 => some .storeConfig
  | _ => none

/-- The fixed argument count of a request (R146, section 11.2). -/
def argumentCount : RequestKind → Nat
  | .readStatus => 1
  | .readRow => 1
  | .readNotice => 0
  | .readResetCause => 0
  | .readConfig => 2
  | .reportSpeed => 3
  | .requestMode => 1
  | .setGovernor => 3
  | .postNote => 3
  | .selectSupply => 1
  | .fillStart => 1
  | .fillStop => 0
  | .ackRow => 1
  | .writeRow => 7
  | .lockTable => 1
  | .writeConfig => 9
  | .storeConfig => 0

/-- Whether a mode lies in a mode mask (section 11.1: bit n for mode code n). -/
def inMask (mask : BitVec 8) (m : Mode) : Bool := mask.getLsbD (modeCode m)

/-- The mode is PUMP or ROLL. -/
def pumping : Mode → Bool
  | .pump | .roll => true
  | _ => false

/-- The mode is ROAD or PARKED. -/
def standing : Mode → Bool
  | .road | .parked => true
  | _ => false

/-- R112: GOOD while the freshness is FRESH and the disagreement other than DISAGREE. -/
def quality (u : SpdUnit) : Quality :=
  if u.freshness = .fresh ∧ u.disagreement ≠ .disagree then .good else .degraded

/-- R112: the degraded cause by its code of page 4 (none 0, STALE 1, DISAGREE 2). -/
def degradedCause (u : SpdUnit) : Nat :=
  match u.freshness, u.disagreement with
  | .stale, _ => 1
  | .fresh, .disagree => 2
  | .fresh, _ => 0

/-- The debounced input word (R122): the sum of the weights of the inputs set. -/
def inputWord (u : Inputs) : Nat :=
  bit u.parkBrake.debounced + 2 * bit u.neutralSense.debounced +
    4 * bit u.ptoFeedback.debounced + 8 * bit u.panelStop.debounced

/-- R122: PTO_FEEDBACK is set in an input word. -/
def wordFeedback (word : Nat) : Bool := word.testBit 2

/-- R122: PARK_BRAKE and NEUTRAL_SENSE are both set in an input word. -/
def wordSecured (word : Nat) : Bool := word.testBit 0 && word.testBit 1

/-- R25: the PTO_SHIFT command that a mode and sub-stage ask for. -/
def ptoShiftFor (m : Mode) (sub : Option SubStage) : Bool :=
  match m with
  | .shiftingIn | .pump | .roll => true
  | .disengaging => sub == some .spinDown
  | _ => false

/-- R26: the PUMP_READY command. -/
def pumpReadyFor (m : Mode) (b : BlockSet) : Bool := m == .pump && !holdsBlock b .throttle

/-- R58: the DRIVE_PERMIT command. -/
def drivePermitFor (m : Mode) (fillActive : Bool) (b : BlockSet) : Bool :=
  (standing m || m == .roll) && !fillActive && !holdsBlock b .drive

/-- R102: the TANK_VALVE command. -/
def tankValveFor (x : Supply) (m : Mode) (b : BlockSet) : Bool :=
  x == .tank && pumping m && !holdsBlock b .draw

/-- R108: the stall check is suspended while the supply is TANK and the mode is PUMP. -/
def stallSuspended (x : Supply) (m : Mode) : Bool := x == .tank && m == .pump

/-- R137: a port's attention line is high while its queue holds a record. -/
def attention (q : NtqPort) : Bool := !q.queue.isEmpty

end Sys2Proof.Machine
end

