-- ==== Sys2Proof/Machine/Ops.lean ====
section
/-! DEFINITION. Operations shared by the units: time, timers, hand-overs, notices, answers. -/

namespace Sys2Proof.Machine

/-! ### Time -/

/-- `dt` microseconds pass (00_scope.md, "Time"): the time base stands at 0 while the RESET line is
low and counts from the end of the reset; the microsecond count runs from the end of the start-up
load. -/
def advance (dt : Nat) (s : State) : State :=
  match s.phase with
  | .held => s
  | .loading =>
    { s with
      timeBase := s.timeBase + BitVec.ofNat 32 ((s.usPhase + dt) / 1000)
      usPhase := (s.usPhase + dt) % 1000 }
  | .running =>
    { s with
      timeBase := s.timeBase + BitVec.ofNat 32 ((s.usPhase + dt) / 1000)
      usPhase := (s.usPhase + dt) % 1000
      usCount := s.usCount + BitVec.ofNat 32 dt }

/-- The difference of two values of a 32-bit count, modulo 2^32 (00_scope.md, "Time"). -/
def sinceCount (now then_ : Count32) : Nat := (now - then_).toNat

/-- A timer of `length` ms started now. -/
def startTimer (s : State) (length : Nat) : Timer := ⟨s.timeBase, length⟩

/-- The timer runs and its time has come. -/
def timerDue (now : Count32) : Option Timer → Bool
  | none => false
  | some t => decide (t.length ≤ sinceCount now t.start)

/-- The milliseconds left on a timer, 0 where none runs or its time has come. -/
def timerLeft (now : Count32) : Option Timer → Nat
  | none => 0
  | some t => t.length - sinceCount now t.start

/-! ### The working configuration -/

/-- The working configuration.  While a reset has emptied it (R162) no command reads it, and the
factory values stand in. -/
def conf (s : State) : WorkingConfig := s.cfg.working.getD factory

/-- Port `p` holds the right now (R145). -/
def portHolds (s : State) (p : Port) (k : Right) : Bool :=
  holdsRight (portGet (conf s).rights p) k

/-- Port `p`'s MODE rank now (R29). -/
def portRank (s : State) (p : Port) : Nat := portGet (conf s).ranks p

/-! ### Hand-overs and notices -/

/-- A unit hands something on: it joins the hand-overs under way. -/
def handOver (h : Handover) (s : State) : State := { s with hand := s.hand ++ [h] }

/-- A unit posts a notice; its stamp is the low 16 bits of the time base (R149). -/
def post (sender : UnitName) (kind : NoticeKind) (subject : Nat) (value : Word) (dest : Addressee)
    (s : State) : State :=
  handOver (.notice sender ⟨kind, BitVec.ofNat 8 subject, value, lowWord s.timeBase⟩ dest) s

/-- A value of two bytes: `high` in bits 15–8 and `low` in bits 7–0 (section 11.3). -/
def bytesWord (high low : Nat) : Word := packWord [(8, low), (8, high)]

/-- A unit hands LKT an arrival of a source (R42). -/
def arrive (sender : UnitName) (source : Source) (v : Option Int) (s : State) : State :=
  handOver (.arrival sender source v) s

/-! ### Links -/

/-- The link record of a port with `f` applied. -/
def updateLink (p : Port) (f : Link → Link) (s : State) : State :=
  { s with links := portSet s.links p (f (portGet s.links p)) }

/-- What NTQ holds for a port with `f` applied. -/
def updateNtq (p : Port) (f : NtqPort → NtqPort) (s : State) : State :=
  { s with ntq := portSet s.ntq p (f (portGet s.ntq p)) }

/-- The arguments of the request of this kind that port `p`'s link has handed on and that its owner
has not decided yet (R139). -/
def askedOf (s : State) (p : Port) (kind : RequestKind) : Option (List Word) :=
  match (portGet s.links p).preparation with
  | some (.asked k args) => if k = kind then some args else none
  | _ => none

/-- The owner fixes the answer of port `p`'s request (R139). -/
def fixAnswer (p : Port) (a : Answer) (s : State) : State :=
  updateLink p (fun l => { l with preparation := some (.answered a) }) s

/-- The owner takes port `p`'s request of this kind and decides it by `decide_`, which gives the
state after it, the result and the answer's data.  Where the link has handed on no such request
there is nothing to take: log entry 8. -/
def serve (p : Port) (kind : RequestKind) (decide_ : List Word → State → State × Result × List Word)
    (s : State) : State :=
  match askedOf s p kind with
  | none => s
  | some args =>
    fixAnswer p ⟨kind, (decide_ args s).2.1, (decide_ args s).2.2⟩ (decide_ args s).1

/-- Argument `n` of a request as an unsigned number (R164). -/
def argAt (args : List Word) (n : Nat) : Nat := (args.getD n 0).toNat

/-- A decision that changes nothing and carries no data. -/
def refuse (r : Result) (s : State) : State × Result × List Word := (s, r, [])

end Sys2Proof.Machine
end

