-- ==== Sys2Proof/Machine/Cnv.lean ====
section
/-! DEFINITION. CNV: scans, calibration, channel faults (chapter 7). -/

namespace Sys2Proof.Machine

/-- R129: a scan starts with the list and the period of the working configuration. -/
def startScan (s : State) : State :=
  { s with cnv := { s.cnv with
      toConvert := (conf s).scanList
      begun := s.usCount
      scanPeriod := some (startTimer s (conf s).rates.scanPeriod) } }

/-- R129: the time of a conversion, in µs. -/
def conversionTime : Nat := 100

/-- The kind range of a channel (section 7.4). -/
def kindClamp (channel : Nat) (v : Int) : Int :=
  match channel with
  | 0 => clampInt 0 4000 v
  | 1 => clampInt (-100) 1500 v
  | 2 | 3 | 4 | 5 => clampInt 0 2000 v
  | _ => clampInt 0 4095 v

/-- R131: the value of a code. -/
def calibrated (k : Calibration) (channel code : Nat) : Int :=
  kindClamp channel (roundedDiv (((code : Int) - k.offset) * k.gain) 1024)

/-- R132: the code lies within the window. -/
def inWindow (k : Calibration) (code : Nat) : Bool := within k.lo k.hi code

/-- R132, R133: the channel record after a conversion of `code`. -/
def converted (k : Calibration) (channel code : Nat) (c : Channel) : Channel :=
  if inWindow k code then
    if c.faulted then
      if c.run < 2 then { c with run := c.run + 1 }
      else ⟨calibrated k channel code, true, false, 0⟩
    else { c with value := calibrated k channel code, goodTaken := true }
  else { c with faulted := true, run := 0 }

/-- The subjects of SENSOR (section 11.3). -/
def sensorSubject (what channel : Nat) : Nat := packFields [(4, channel), (4, what)]

/-- R132, R133: the SENSOR notice of a conversion, if the fault state changed. -/
def postSensor (channel code : Nat) (old new : Channel) (s : State) : State :=
  match old.faulted, new.faulted with
  | false, true =>
    post .cnv .sensor (sensorSubject 1 channel) (wordOfNat code) .subscribers s
  | true, false =>
    post .cnv .sensor (sensorSubject 2 channel) (wordOfInt new.value) .subscribers s
  | true, true | false, false => s

/-- R134: the value with its mark goes to the consumers of the channel. -/
def publishChannel (channel : Nat) (c : Channel) (s : State) : State :=
  match channel with
  | 0 => arrive .cnv .discharge (some c.value) (handOver (.dischargeToGov c.value c.faulted) s)
  | 1 => arrive .cnv .intake (some c.value) (handOver (.intakeToGov c.value c.faulted) s)
  | 6 => arrive .cnv .aux0 (some c.value) s
  | 7 => arrive .cnv .aux1 (some c.value) s
  | ch => handOver (.levelToTnk ch c.value c.faulted) s

/-- The channel record of a channel. -/
def channelOf (s : State) (channel : Nat) : Channel :=
  s.cnv.channels.getD channel ⟨0, false, false, 0⟩

/-- R131 to R134: channel `channel` takes `code` and hands its value on. -/
def takeCode (channel code : Nat) (s : State) : State :=
  let old := channelOf s channel
  let new := converted ((conf s).calibration.getD channel ⟨0, 0, 0, 0⟩) channel code old
  publishChannel channel new
    (postSensor channel code old new
      { s with cnv := { s.cnv with channels := replaceAt s.cnv.channels channel new } })

/-- R129, R134: the conversion of `channel` completes with `code`; `rest` is what the scan has still
to convert.  An entry above 7, which only an image that R160 never wrote can hold, names no channel
and gives nothing (log entry 4). -/
def completeConversion (channel : Nat) (rest : List Nat) (code : Nat) (s : State) : State :=
  let s1 := { s with cnv := { s.cnv with toConvert := rest, begun := s.usCount } }
  if channel < 8 then takeCode channel code s1 else s1

end Sys2Proof.Machine
end

