-- ==== Sys2Proof/Machine/Gov.lean ====
section
/-! DEFINITION. GOV: demand, ceiling, updates, intake protection, fallback (chapter 4). -/

namespace Sys2Proof.Machine

/-! ### Demand and ceiling -/

/-- R136: the duty commanded on the THROTTLE line; a fall bounds the present period, a rise waits
for the next.  A fall that follows a rise within the period, and lies above the duty in force,
leaves the duty in force as it is (DESIGN CHOICE, log entry 36). -/
def commandThrottle (d : Nat) (t : Throttle) : Throttle :=
  { t with commanded := d, inForce := min t.inForce d }

/-- R71: a new demand goes to the THROTTLE line and to LKT; an unchanged one goes nowhere. -/
def setDemand (d : Nat) (s : State) : State :=
  if d = s.gov.d then s
  else arrive .gov .throttleDemand (some d)
    { s with gov := { s.gov with d := d }
             lio := { s.lio with throttle := commandThrottle d s.lio.throttle } }

/-- R77: the least of C_cfg, C_intake, and 0 when the block set holds THROTTLE. -/
def ceilingFor (cCfg cIntake : Nat) (b : BlockSet) : Nat :=
  if holdsBlock b .throttle then 0 else min cCfg cIntake

/-- R78, R79, R80: C is the least of its terms and D falls to it at once. -/
def applyCeiling (s : State) : State :=
  let c := ceilingFor (conf s).gains.ceiling s.gov.cIntake s.gov.blocks
  setDemand (min s.gov.d c) { s with gov := { s.gov with c := c } }

/-! ### Notices (R71) -/

/-- The subjects of GOVERNOR (section 11.3). -/
def fallbackSubject : Nat := 0
def intakeLowSubject : Nat := 1
def intakeClearSubject : Nat := 2
def intakeSuspendedSubject : Nat := 3

/-- A GOVERNOR notice. -/
def postGovernor (subject : Nat) (v : Int) (s : State) : State :=
  post .gov .governor subject (wordOfInt v) .subscribers s

/-! ### Intake watch (section 4.5) -/

/-- R80, R81, R82: the watch becomes another than LOW, with C_intake back at C_cfg and C
recomputed. -/
def leaveRamp (x : IntakeWatch) (s : State) : State :=
  applyCeiling { s with gov := { s.gov with watch := x, cIntake := (conf s).gains.ceiling } }

/-- R81: the watch becomes OFF, posting INTAKE_CLEAR if it was LOW. -/
def watchOff (s : State) : State :=
  leaveRamp .off
    (if s.gov.watch = .low then postGovernor intakeClearSubject s.gov.lastIntake s else s)

/-- R81: protection applies while the mode is PUMP or ROLL and the supply is EXTERNAL. -/
def protects (u : GovUnit) : Bool := pumping u.mode && u.supply == .external

/-- R81: the watch as the mode and the supply now set it. -/
def setWatch (s : State) : State :=
  match protects s.gov, s.gov.watch with
  | true, .off => { s with gov := { s.gov with watch := .watching } }
  | true, .watching | true, .low | true, .suspended => s
  | false, .off => s
  | false, .watching | false, .low | false, .suspended => watchOff s

/-- R81, R82: an intake arrival. -/
def govTakesIntake (v : Int) (faulted : Bool) (s0 : State) : State :=
  let s := { s0 with gov := { s0.gov with lastIntake := v } }
  let floor := (conf s).govDefaults.floor
  let clear := floor + (conf s).govDefaults.hysteresis
  match s.gov.watch with
  | .off => s
  | .watching =>
    if faulted then leaveRamp .suspended (postGovernor intakeSuspendedSubject v s)
    else if v < floor then
      postGovernor intakeLowSubject v { s with gov := { s.gov with watch := .low } }
    else s
  | .low =>
    if faulted then leaveRamp .suspended (postGovernor intakeSuspendedSubject v s)
    else if v < clear then s
    else leaveRamp .watching (postGovernor intakeClearSubject v s)
  | .suspended =>
    if faulted then s
    else if v < floor then
      postGovernor intakeLowSubject v { s with gov := { s.gov with watch := .low } }
    else
      postGovernor intakeClearSubject v { s with gov := { s.gov with watch := .watching } }

/-! ### The update (section 4.3) -/

/-- R75: the clamped error on a discharge pressure. -/
def governorError (s : State) (pd : Int) : Int :=
  clampInt (-1000) 1000 <|
    match s.gov.governing with
    | .pressure => (s.gov.sp : Int) - pd
    | .speed => (s.gov.sn : Int) - s.lio.np

/-- R76: the sum of the two terms. -/
def governorSum (s : State) (e : Int) : Int :=
  match s.gov.governing with
  | .pressure => (conf s).gains.kpPressure * (e - s.gov.ePrev) + (conf s).gains.kiPressure * e
  | .speed => (conf s).gains.kpSpeed * (e - s.gov.ePrev) + (conf s).gains.kiSpeed * e

/-- R76: the increment. -/
def governorIncrement (s : State) (e : Int) : Int :=
  clampInt (-(conf s).gains.slew) (conf s).gains.slew (roundedDiv (governorSum s e) 256)

/-- R80: the intake ramp with which an update begins while the watch is LOW. -/
def rampIntake (s : State) : State :=
  if s.gov.watch = .low then
    { s with gov := { s.gov with cIntake := s.gov.d - (conf s).gains.slew } }
  else s

/-- R72, R75 to R77, R80: one update. -/
def governorUpdate (pd : Int) (s0 : State) : State :=
  let s := rampIntake s0
  let e := governorError s pd
  let c := ceilingFor (conf s).gains.ceiling s.gov.cIntake s.gov.blocks
  let d := (clampInt 0 c (s.gov.d + governorIncrement s e)).toNat
  setDemand d { s with gov := { s.gov with c := c, ePrev := e } }

/-- R83, R84: the discharge fault mark, and the fallback to SPEED. -/
def fallbackCheck (faulted : Bool) (s0 : State) : State :=
  let s := { s0 with gov := { s0.gov with faultMark := faulted } }
  if faulted && s.gov.governing = .pressure then
    let n := clampNat 600 3000 s.lio.np
    postGovernor fallbackSubject n
      { s with gov := { s.gov with governing := .speed, sn := n, ePrev := 0 } }
  else s

/-- R72: a channel 0 arrival. -/
def govTakesDischarge (v : Int) (faulted : Bool) (s : State) : State :=
  if pumping s.gov.mode then governorUpdate v (fallbackCheck faulted s)
  else fallbackCheck faulted s

/-! ### What SEQ, LKT and TNK hand GOV -/

/-- R73, R81: a mode transition. -/
def govTakesMode (m : Mode) (s : State) : State :=
  let old := s.gov.mode
  let s1 := { s with gov := { s.gov with mode := m } }
  if old = .shiftingIn ∧ m = .pump then
    applyCeiling (setWatch (setDemand 0 { s1 with gov := { s1.gov with
      ePrev := 0, cIntake := (conf s1).gains.ceiling } }))
  else if pumping old && !pumping m then
    watchOff (setDemand 0 { s1 with gov := { s1.gov with ePrev := 0 } })
  else s1

/-- R78: a change of the block set. -/
def govTakesBlocks (b : BlockSet) (s : State) : State :=
  let s1 := { s with gov := { s.gov with blocks := b } }
  if holdsBlock b .throttle = holdsBlock s.gov.blocks .throttle then s1 else applyCeiling s1

/-- R81: a change of supply. -/
def govTakesSupply (x : Supply) (s : State) : State :=
  setWatch { s with gov := { s.gov with supply := x } }

/-- R79: C_cfg has been written. -/
def govTakesCeiling (s : State) : State :=
  applyCeiling
    (if s.gov.watch = .low then s
     else { s with gov := { s.gov with cIntake := (conf s).gains.ceiling } })

end Sys2Proof.Machine
end

