-- ==== Sys2Proof/Machine/Lio.lean ====
section
/-! DEFINITION. LIO: discrete inputs, pump speed, gates, the THROTTLE line (chapter 7). -/

namespace Sys2Proof.Machine

/-! ### Discrete inputs -/

/-- R122, section 7.1: what a line level reads as; PANEL_STOP is set when its line is low. -/
def readsSet : DiscreteInput → Levels → Bool
  | .parkBrake, l => l.parkBrake
  | .neutralSense, l => l.neutralSense
  | .ptoFeedback, l => l.ptoFeedback
  | .panelStop, l => !l.panelStop

/-- What LIO holds of an input. -/
def inputGet (u : Inputs) : DiscreteInput → InputSlot
  | .parkBrake => u.parkBrake
  | .neutralSense => u.neutralSense
  | .ptoFeedback => u.ptoFeedback
  | .panelStop => u.panelStop

/-- `u` with what LIO holds of one input replaced. -/
def inputSet (u : Inputs) (i : DiscreteInput) (x : InputSlot) : Inputs :=
  match i with
  | .parkBrake => { u with parkBrake := x }
  | .neutralSense => { u with neutralSense := x }
  | .ptoFeedback => { u with ptoFeedback := x }
  | .panelStop => { u with panelStop := x }

/-- R122: the first sample gives raw and debounced level. -/
def firstSample (l : Levels) : Inputs :=
  ⟨⟨readsSet .parkBrake l, readsSet .parkBrake l, none⟩,
    ⟨readsSet .neutralSense l, readsSet .neutralSense l, none⟩,
    ⟨readsSet .ptoFeedback l, readsSet .ptoFeedback l, none⟩,
    ⟨readsSet .panelStop l, readsSet .panelStop l, none⟩⟩

/-- R123: an input at a sample; `timer` is a stability timer started now. -/
def sampled (timer : Timer) (raw : Bool) (x : InputSlot) : InputSlot :=
  { x with
    raw := raw
    timer := if raw = x.debounced then none else some (x.timer.getD timer) }

/-- R123: the four inputs at a sample. -/
def sampleInputs (timer : Timer) (l : Levels) (u : Inputs) : Inputs :=
  ⟨sampled timer (readsSet .parkBrake l) u.parkBrake,
    sampled timer (readsSet .neutralSense l) u.neutralSense,
    sampled timer (readsSet .ptoFeedback l) u.ptoFeedback,
    sampled timer (readsSet .panelStop l) u.panelStop⟩

/-- R123: a change accepted. -/
def accepted (x : InputSlot) : InputSlot := { x with debounced := x.raw, timer := none }

/-- R124: LIO publishes the word to SEQ and LKT. -/
def publishWord (s : State) : State :=
  arrive .lio .inputs (some (inputWord s.lio.inputs)) (handOver (.wordToSeq (inputWord s.lio.inputs)) s)

/-! ### Pump speed -/

/-- R126: the length of the silence timer. -/
def silenceLength : Nat := 500

/-- R125: the pump speed of a period of `period` µs with `q` pulses a revolution. -/
def pumpSpeedOf (period q : Nat) : Nat := min 4000 (truncatedQuotient 60000000 (period * q))

/-- R125: LIO publishes N_p to LKT and SEQ. -/
def publishPump (s : State) : State :=
  arrive .lio .pumpSpeed (some s.lio.np) (handOver (.pumpToSeq s.lio.np) s)

/-- R125: N_p at a rising edge. -/
def speedAtEdge (s : State) : Nat :=
  match s.lio.prevEdge with
  | none => s.lio.np
  | some e => pumpSpeedOf (sinceCount s.usCount e) (conf s).rates.q

/-! ### Gates -/

/-- R127: a gate starts, its length read from the working configuration. -/
def startGate (s : State) : State :=
  { s with lio := { s.lio with gate := some (startTimer s (conf s).rates.gate), gateCount := 0 } }

/-! ### The THROTTLE line -/

/-- R136: the nominal period in µs. -/
def pwmPeriod : Nat := 5000

/-- R136: a period starts with the duty last commanded. -/
def startPwm (s : State) : State :=
  { s with lio := { s.lio with throttle :=
      { s.lio.throttle with
        inForce := s.lio.throttle.commanded, periodStart := some s.usCount } } }

/-- R136: the level of the THROTTLE line now: high for D per mille of the period from its start. -/
def throttleLine (s : State) : Bool :=
  match s.lio.throttle.periodStart with
  | none => false
  | some t =>
    decide (1000 ≤ s.lio.throttle.inForce) ||
      decide (sinceCount s.usCount t < s.lio.throttle.inForce * 5)

end Sys2Proof.Machine
end

