-- ==== Sys2Proof/Machine/Lkt.lean ====
section
/-! DEFINITION. LKT: sources, conditions, row states, the block set (chapter 3). -/

namespace Sys2Proof.Machine

/-! ### Sources -/

/-- R43: the source is faulted now. -/
def sourceFaulted (s : State) : Source → Bool
  | .discharge => (s.cnv.channels.map Channel.faulted).getD 0 false
  | .intake => (s.cnv.channels.map Channel.faulted).getD 1 false
  | .aux0 => (s.cnv.channels.map Channel.faulted).getD 6 false
  | .aux1 => (s.cnv.channels.map Channel.faulted).getD 7 false
  | .tank0Volume => s.tnk.tank0.state == .unknown
  | .tank1Volume => s.tnk.tank1.state == .unknown
  | .roadSpeed | .transmission => quality s.spd == .degraded
  | .pumpSpeed | .tank0State | .tank1State | .inputs | .speedQuality | .supply | .fillActive
  | .configInvalid | .throttleDemand => false

/-- What LKT keeps of a source (section 3.2). -/
def sourceSlot (s : State) (x : Source) : SourceSlot :=
  s.lkt.sources.getD (sourceCode x) ⟨none, none⟩

/-- LKT takes an arrival's value: the latest, and the last good one unless the source is faulted
(R43). -/
def takeValue (x : Source) (v : Option Int) (s : State) : State :=
  { s with lkt := { s.lkt with
      sources := replaceAt s.lkt.sources (sourceCode x)
        ⟨v, if sourceFaulted s x then (sourceSlot s x).lastGood else v⟩ } }

/-! ### Records -/

/-- R59: the fixed rows' records, with the items of R60. -/
def fixedRecord (f : FixedRowItems) : Nat → RowRecord
  | 0 => ⟨true, .inputs, .always, 0, 0, 0, 0xD9, none, 0, false, 0x01, false⟩
  | 1 => ⟨true, .inputs, .maskedDiffer, 3, 3, 0, 0x10, none, 0, false, 0x08, false⟩
  | 2 => ⟨true, .roadSpeed, .outside, 0, f.rollLimit, 0, 0x20, none, f.hold2, false, 0x08, true⟩
  | 3 => ⟨true, .roadSpeed, .outside, 0, f.rollLimit, 0, 0x20, some 2, f.hold3, true, 0x02, true⟩
  | 4 => ⟨true, .speedQuality, .maskedEqual, 1, 1, 0, 0xFF, none, 0, false, 0x04, false⟩
  | 5 => ⟨true, .fillActive, .maskedEqual, 1, 1, 0, 0xFF, none, 0, false, 0x01, false⟩
  | 6 => ⟨true, .tank0State, .inside, 0, 1, 0, 0x30, none, f.hold6, false, 0x08, false⟩
  | 7 => ⟨true, .discharge, .inside, f.pMax, 4000, 100, 0x30, none, 0, true, 0x08, false⟩
  | 8 => ⟨true, .configInvalid, .maskedEqual, 1, 1, 0, 0xFF, none, 0, false, 0x22, false⟩
  | 9 => ⟨true, .inputs, .maskedEqual, 4, 4, 0, 0x06, none, f.hold9, true, 0x01, false⟩
  | 10 => ⟨true, .transmission, .outside, 1, 2, 0, 0x20, none, f.hold10, false, 0x08, true⟩
  | _ => ⟨true, .inputs, .maskedEqual, 8, 8, 0, 0xFF, none, 0, true, 0x0A, false⟩

/-- R40: row `i`'s record, built in for 0 to 11 and in the working configuration for 12 to 23. -/
def rowRecord (c : WorkingConfig) (i : Nat) : RowRecord :=
  if i < 12 then fixedRecord c.fixedRows i else c.rows.getD (i - 12) factoryRow

/-! ### Conditions -/

/-- R44: every bit that `mask` selects has in `v` the value it has in `pattern`. -/
def maskedSame (v pattern mask : Int) : Bool :=
  (wordOfInt v ^^^ wordOfInt pattern) &&& wordOfInt mask == 0

/-- R44 the plain test, R45 the widened one. -/
def compare (r : RowRecord) (widened : Bool) (v : Int) : Bool :=
  match r.comparison with
  | .always => true
  | .inside =>
    if widened then decide (r.lo - r.h ≤ v) && decide (v ≤ r.hi + r.h)
    else decide (r.lo ≤ v) && decide (v ≤ r.hi)
  | .outside =>
    if widened then
      if r.hi - r.h < r.lo + r.h then v != Int.tdiv (r.lo + r.hi) 2
      else decide (v < r.lo + r.h) || decide (r.hi - r.h < v)
    else decide (v < r.lo) || decide (r.hi < v)
  | .maskedEqual => maskedSame v r.lo r.hi
  | .maskedDiffer => !maskedSame v r.lo r.hi

/-- A comparison applied to a value that may be missing. -/
def compareIf (r : RowRecord) (widened : Bool) : Option Int → Bool
  | none => false
  | some v => compare r widened v

/-- R61: SUPPLY is TANK and TANK0_STATE is UNKNOWN or EMPTY. -/
def tankDry (s : State) : Bool :=
  (sourceSlot s .supply).latest == some 0 &&
    ((sourceSlot s .tank0State).latest == some 0 || (sourceSlot s .tank0State).latest == some 1)

/-- R46: the condition of row `i` with record `r`, the test widened while the row is ACTIVE. -/
def condition (s : State) (i : Nat) (r : RowRecord) (widened : Bool) : Bool :=
  if i = 6 then tankDry s
  else if r.comparison = .always then true
  else if sourceFaulted s r.source then
    if r.onFaultTrue then true else compareIf r widened (sourceSlot s r.source).lastGood
  else compareIf r widened (sourceSlot s r.source).latest

/-! ### Row states -/

/-- The row is in effect (section 3.4). -/
def inEffect : RowState → Bool
  | .active | .latched => true
  | _ => false

/-- Row `i`'s slot. -/
def rowSlot (s : State) (i : Nat) : RowSlot := s.lkt.rows.getD i ⟨.off, none⟩

/-- R49, R50, R51, R52: what a row becomes when it is evaluated. -/
def evaluated (s : State) (i : Nat) (r : RowRecord) (slot : RowSlot) : RowSlot :=
  match slot.state with
  | .clear =>
    if condition s i r false then
      if r.hold = 0 then ⟨.active, none⟩ else ⟨.holding, some (startTimer s r.hold)⟩
    else ⟨.clear, none⟩
  | .holding => if condition s i r false then slot else ⟨.clear, none⟩
  | .active =>
    if condition s i r true then slot else if r.latched then ⟨.latched, none⟩ else ⟨.clear, none⟩
  | .off | .wait | .latched => slot

/-- R47: what placement gives a row. -/
def placed (s : State) (i : Nat) (r : RowRecord) : RowSlot :=
  if !r.enable || !inMask r.mask s.lkt.mode then ⟨.off, none⟩
  else
    match r.precursor with
    | none => evaluated s i r ⟨.clear, none⟩
    | some p =>
      if inEffect (rowSlot s p).state then evaluated s i r ⟨.clear, none⟩ else ⟨.wait, none⟩

/-- R53: a row at a mode transition, the new mode already LKT's. -/
def atModeChange (s : State) (i : Nat) (r : RowRecord) (slot : RowSlot) : RowSlot :=
  if inMask r.mask s.lkt.mode then
    match slot.state with
    | .off => placed s i r
    | .wait | .clear | .holding | .active | .latched => evaluated s i r slot
  else
    match slot.state with
    | .active => if r.latched then ⟨.latched, none⟩ else ⟨.off, none⟩
    | .off | .wait | .clear | .holding => ⟨.off, none⟩
    | .latched => slot

/-- R54: a row whose precursor has left effect. -/
def precursorLeft (r : RowRecord) (slot : RowSlot) : RowSlot :=
  match slot.state with
  | .clear | .holding => ⟨.wait, none⟩
  | .active => if r.latched then ⟨.latched, none⟩ else ⟨.wait, none⟩
  | .wait | .off | .latched => slot

/-- R54: a row whose precursor has come into effect. -/
def precursorCame (s : State) (i : Nat) (r : RowRecord) (slot : RowSlot) : RowSlot :=
  match slot.state with
  | .wait => placed s i r
  | .off | .clear | .holding | .active | .latched => slot

/-- R54: a row, according to what its precursor was at the start of the handling and is now. -/
def afterPrecursor (before : List RowSlot) (s : State) (i : Nat) (r : RowRecord) (slot : RowSlot) :
    RowSlot :=
  match r.precursor with
  | none => slot
  | some p =>
    match inEffect (before.getD p ⟨.off, none⟩).state, inEffect (rowSlot s p).state with
    | true, false => precursorLeft r slot
    | false, true => precursorCame s i r slot
    | _, _ => slot

/-- The events that LKT handles (R48). -/
inductive RowEvent where
  | arrival (source : Source)
  | expiry (row : Nat)
  | modeChange
  | place (row : Nat)
  | placeAll
  deriving DecidableEq, Repr

/-- R42, R61: row `i` with record `r` watches the source. -/
def watches (i : Nat) (r : RowRecord) (x : Source) : Bool :=
  r.source == x || (i == 6 && x == .supply)

/-- What the event itself does to a row (R47, R48, R50, R53). -/
def atEvent (ev : RowEvent) (s : State) (i : Nat) (r : RowRecord) (slot : RowSlot) : RowSlot :=
  match ev with
  | .arrival x => if watches i r x then evaluated s i r slot else slot
  | .expiry row => if i = row ∧ slot.state = .holding then ⟨.active, none⟩ else slot
  | .modeChange => atModeChange s i r slot
  | .place row => if i = row then placed s i r else slot
  | .placeAll => placed s i r

/-- One row's turn in a handling (R48): first what a change of its precursor brings (R54), then what
the event brings (DEDUCED, log entry 10). -/
def treatRow (before : List RowSlot) (ev : RowEvent) (s : State) (i : Nat) : State :=
  let r := rowRecord (conf s) i
  { s with lkt := { s.lkt with
      rows := replaceAt s.lkt.rows i
        (atEvent ev s i r (afterPrecursor before s i r (rowSlot s i))) } }

/-- R48: the rows' turns in ascending order of index. -/
def treatRows (ev : RowEvent) (s : State) : State :=
  (List.range 24).foldl (treatRow s.lkt.rows ev) s

/-! ### The end of a handling -/

/-- R55: the ROW_STATE notice of row `i` if its state has changed. -/
def noticeRow (before : List RowSlot) (s : State) (i : Nat) : State :=
  if (rowSlot s i).state = (before.getD i ⟨.off, none⟩).state then s
  else post .lkt .rowState i
    (bytesWord (rowStateCode (rowSlot s i).state)
      (rowStateCode (before.getD i ⟨.off, none⟩).state)) .subscribers s

/-- R55: the notices of a handling, in ascending row index. -/
def noticeRows (before : List RowSlot) (s : State) : State :=
  (List.range 24).foldl (noticeRow before) s

/-- R56: the union of the blocks of the rows in effect. -/
def derivedBlocks (s : State) : BlockSet :=
  (List.range 24).foldl
    (fun b i => if inEffect (rowSlot s i).state then b ||| (rowRecord (conf s) i).blocks else b) 0

/-- A fill is open, as LKT knows it. -/
def fillActive (s : State) : Bool := (sourceSlot s .fillActive).latest == some 1

/-- R56, R58: the block set is derived and handed on when it has changed, and DRIVE_PERMIT is
commanded. -/
def deriveBlocks (s : State) : State :=
  let b := derivedBlocks s
  let s1 := { s with lkt := { s.lkt with
      blocks := b, drivePermit := drivePermitFor s.lkt.mode (fillActive s) b } }
  if b = s.lkt.blocks then s1
  else handOver (.blocksToTnk b) (handOver (.blocksToGov b) (handOver (.blocksToSeq b) s1))

/-- R48: LKT handles an event whole. -/
def handleRows (ev : RowEvent) (s : State) : State :=
  deriveBlocks (noticeRows s.lkt.rows (treatRows ev s))

/-- R69: the table placement after a reset, which posts no ROW_STATE. -/
def placeTable (s : State) : State := deriveBlocks (treatRows .placeAll s)

/-! ### What the other units hand LKT -/

/-- R42, R48: an arrival of a source. -/
def lktTakesArrival (x : Source) (v : Option Int) (s : State) : State :=
  handleRows (.arrival x) (takeValue x v s)

/-- R48, R53: a mode transition of SEQ. -/
def lktTakesMode (m : Mode) (s : State) : State :=
  handleRows .modeChange { s with lkt := { s.lkt with mode := m } }

end Sys2Proof.Machine
end

