-- ==== Sys2Proof/Machine/Ntq.lean ====
section
/-! DEFINITION. NTQ: placing notices, reset causes (chapter 9). -/

namespace Sys2Proof.Machine

/-- R150: port `p`'s subscription mask includes the kind (bit n for notice kind code n). -/
def subscribed (s : State) (p : Port) (kind : NoticeKind) : Bool :=
  (portGet (conf s).subscriptions p &&& subscriptionBits).getLsbD (noticeCode kind)

/-- R150: the notice is addressed to port `p`. -/
def addressed (s : State) (n : Notice) : Addressee → Port → Bool
  | .only q, p => q == p
  | .subscribers, p => subscribed s p n.kind
  | .subscribersAnd q, p => q == p || subscribed s p n.kind

/-- R151: the notice joins the queue at its newest end, or is dropped and counted when the queue
holds 16. -/
def enqueue (n : Notice) (q : NtqPort) : NtqPort :=
  if q.queue.length < 16 then { q with queue := q.queue ++ [n] }
  else { q with lost := if q.lost < 255 then q.lost + 1 else 255 }

/-- The notice joins port `p`'s queue if it is addressed to it. -/
def placeFor (n : Notice) (dest : Addressee) (p : Port) (s : State) : State :=
  if addressed s n dest p then updateNtq p (enqueue n) s else s

/-- R151: NTQ places a notice in all the queues it is addressed to. -/
def placeNotice (n : Notice) (dest : Addressee) (s : State) : State :=
  placeFor n dest .panel (placeFor n dest .cab (placeFor n dest .chassis s))

/-- A cause joins a reset cause set (R154). -/
def addCause (c : ResetCause) (q : NtqPort) : NtqPort :=
  match c with
  | .supplyStart => { q with causes := { q.causes with supplyStart := true } }
  | .resetLine => { q with causes := { q.causes with resetLine := true } }
  | .configDefaulted => { q with causes := { q.causes with configDefaulted := true } }
  | .ptoFoundEngaged => { q with causes := { q.causes with ptoFoundEngaged := true } }

/-- A cause joins the sets of the three ports (R154). -/
def addCauseAll (c : ResetCause) (s : State) : State :=
  { s with ntq := ⟨addCause c s.ntq.chassis, addCause c s.ntq.cab, addCause c s.ntq.panel⟩ }

/-- R154: the member of highest priority. -/
def firstCause (c : CauseSet) : Option ResetCause :=
  if c.supplyStart then some .supplyStart
  else if c.resetLine then some .resetLine
  else if c.configDefaulted then some .configDefaulted
  else if c.ptoFoundEngaged then some .ptoFoundEngaged
  else none

/-- The set without a member. -/
def withoutCause (c : CauseSet) : Option ResetCause → CauseSet
  | none => c
  | some .supplyStart => { c with supplyStart := false }
  | some .resetLine => { c with resetLine := false }
  | some .configDefaulted => { c with configDefaulted := false }
  | some .ptoFoundEngaged => { c with ptoFoundEngaged := false }

end Sys2Proof.Machine
end

