-- ==== Sys2Proof/Machine/Seq.lean ====
section
/-! DEFINITION. SEQ: transitions of the mode record and what the other units hand it (chapters 1, 2). -/

namespace Sys2Proof.Machine

/-- A mode with its sub-stage as one byte: bits 2–0 mode, bits 4–3 sub-stage (section 11.3). -/
def modeByte (m : Mode) (sub : Option SubStage) : Nat :=
  packFields [(3, modeCode m), (2, subStageCode sub)]

/-- R2, R3, R8, R25, R26: one transition.  The record takes the new mode, sub-stage and reason, the
timers that the new mode or sub-stage does not own are discarded, the two commands follow, and
MODE_CHANGED is posted.  A change of the mode is handed to LKT, GOV and TNK; a change of the
sub-stage alone is not (R48, R73). -/
def transition (m : Mode) (sub : Option SubStage) (why : Reason) (s : State) : State :=
  let s1 := { s with seq := { s.seq with
      mode := m, sub := sub, reason := why
      startWait := if m = .init then s.seq.startWait else none
      shiftTimer := if m = .shiftingIn then s.seq.shiftTimer else none
      spinLimit := if sub = some .spinDown then s.seq.spinLimit else none
      releaseTimer := if sub = some .release then s.seq.releaseTimer else none
      ptoShift := ptoShiftFor m sub
      pumpReady := pumpReadyFor m s.seq.blocks } }
  let s2 := post .seq .modeChanged (reasonCode why)
    (bytesWord (modeByte m sub) (modeByte s.seq.mode s.seq.sub)) .subscribers s1
  if m = s.seq.mode then s2
  else handOver (.modeToTnk m) (handOver (.modeToGov m) (handOver (.modeToLkt m) s2))

/-- R37: the outcome of the open request goes to the port that holds it; for SUPERSEDED, bits 15–8
name the port that displaced it. -/
def postOutcome (e : Ending) (displacer : Nat) (s : State) : State :=
  match s.seq.request with
  | none => s
  | some r =>
    post .seq .requestOutcome (operationCode r.kind) (bytesWord displacer (endingCode e))
      (.only r.requester) s

/-- The open request, if any, is closed with an outcome (R37). -/
def closeRequest (e : Ending) (s : State) : State :=
  let s1 := postOutcome e 0 s
  { s1 with seq := { s1.seq with request := none } }

/-- The open request record is written (R30). -/
def openRequest (p : Port) (kind : OperationKind) (s : State) : State :=
  { s with seq := { s.seq with request := some ⟨p, kind, s.timeBase⟩ } }

/-- The PTO feedback in the debounced input word. -/
def feedback (s : State) : Bool := s.lio.inputs.ptoFeedback.debounced

/-- A publication of the input word with PTO_FEEDBACK clear. -/
def clearsFeedback : Handover → Bool
  | .wordToSeq word => !wordFeedback word
  | _ => false

/-- R22: PTO_FEEDBACK is still set for SEQ: it is set in the debounced input word, or the publication
that cleared it is one that SEQ has not taken yet. -/
def feedbackStillSet (s : State) : Bool := feedback s || s.hand.any clearsFeedback

/-- PARK_BRAKE and NEUTRAL_SENSE are both set in the debounced input word. -/
def secured (s : State) : Bool :=
  s.lio.inputs.parkBrake.debounced && s.lio.inputs.neutralSense.debounced

/-- R6: the ROAD–PARKED derivation. -/
def derivedMode (s : State) : Mode :=
  if secured s && s.spd.value == 0 && quality s.spd == .good then .parked else .road

/-- R7: in ROAD or PARKED the derivation is reapplied. -/
def rederive (s : State) : State :=
  if standing s.seq.mode && derivedMode s != s.seq.mode then
    transition (derivedMode s) none .condition s
  else s

/-- R21: a release completes. -/
def completeRelease (s : State) : State :=
  closeRequest .completed (transition (derivedMode s) none .condition s)

/-- R20: the release timer starts. -/
def startRelease (s : State) : State :=
  { s with seq := { s.seq with
      releaseTimer := some (startTimer s (conf s).timing.release) } }

/-- R20: what follows the transition into RELEASE. -/
def releaseEntry (s : State) : State :=
  if feedback s then startRelease s else completeRelease (startRelease s)

/-- The transition into RELEASE and what follows it (R18, R19, R20). -/
def enterRelease (why : Reason) (s : State) : State :=
  releaseEntry (transition .disengaging (some .release) why s)

/-- The transition of an abandoned shift-in, which closes its request (R11, R12, R24). -/
def leaveShift (why : Reason) (e : Ending) (s : State) : State :=
  closeRequest e (transition .disengaging (some .release) why s)

/-- A shift-in is abandoned for a condition or a block: R11, R24. -/
def abandonShift (why : Reason) (e : Ending) (s : State) : State :=
  releaseEntry (leaveShift why e s)

/-- A shift-in is abandoned at the expiry of its timer: R12.  The release that is found clear is
completed by a hand-over of its own, within the step that the circumstances let run to its end (R20),
so that what reaches SEQ together with the expiry and is taken after it finds DISENGAGING (R32): log
entry 35 (DEDUCED). -/
def expireShift (s : State) : State :=
  let s1 := startRelease (leaveShift .timeout .timedOut s)
  if feedback s then s1 else handOver .releaseToSeq s1

/-- R17: what follows the transition into SPIN_DOWN. -/
def spinDownEntry (s : State) : State :=
  let s1 := { s with seq := { s.seq with
      spinLimit := some (startTimer s (conf s).timing.spinDown) } }
  if s.lio.np ≤ (conf s).timing.disengageSpeed then enterRelease .condition s1 else s1

/-- The transition into SPIN_DOWN and what follows it (R16, R24). -/
def enterSpinDown (why : Reason) (s : State) : State :=
  spinDownEntry (transition .disengaging (some .spinDown) why s)

/-- R24: the effect of PTO in the block set, by the mode. -/
def actOnPtoBlock (s : State) : State :=
  if holdsBlock s.seq.blocks .pto then
    match s.seq.mode with
    | .shiftingIn => abandonShift .block .aborted s
    | .pump | .roll => enterSpinDown .block s
    | .init | .road | .parked | .disengaging | .stuck => s
  else s

/-- R10: the shift-in completes. -/
def completeShift (s : State) : State :=
  actOnPtoBlock (closeRequest .completed (transition .pump none .condition s))

/-- R9: the shift-in starts; with the feedback set already it completes in the same event. -/
def startShift (p : Port) (s : State) : State :=
  let s1 := transition .shiftingIn none .request (openRequest p .engage s)
  let s2 := { s1 with seq := { s1.seq with
      shiftTimer := some (startTimer s1 (conf s1).timing.shift) } }
  if holdsBlock s2.seq.blocks .pto then actOnPtoBlock s2
  else if feedback s2 then completeShift s2 else s2

/-- R7, R10, R11, R14, R15, R19, R21, R23: SEQ takes a publication of the input word.  A shift-in is
decided by the word published, so that the feedback and a loss that reach SEQ together count in the
order published (R11); a release by the feedback as it stands ("Completion depends on the state of
the feedback", section 1.7), and so are the other modes: log entry 9. -/
def seqTakesWord (word : Nat) (s : State) : State :=
  match s.seq.mode with
  | .init => s
  | .road | .parked => rederive s
  | .shiftingIn =>
    if wordFeedback word then completeShift s
    else if wordSecured word then s else abandonShift .condition .aborted s
  | .pump | .roll => if feedback s then s else enterRelease .feedbackLost s
  | .disengaging =>
    if feedback s then s
    else if s.seq.sub = some .release then completeRelease s else enterRelease .feedbackLost s
  | .stuck => if feedback s then s else transition (derivedMode s) none .condition s

/-- R20, R21: the end of a release that was found clear at its entry, if it still waits and still is
clear. -/
def seqTakesRelease (s : State) : State :=
  if s.seq.mode = .disengaging ∧ s.seq.sub = some .release ∧ feedback s = false then
    completeRelease s
  else s

/-- R18: SEQ takes a pump speed publication. -/
def seqTakesPump (np : Nat) (s : State) : State :=
  if s.seq.mode = .disengaging ∧ s.seq.sub = some .spinDown ∧
      np ≤ (conf s).timing.disengageSpeed then
    enterRelease .condition s
  else s

/-- R24, R26: SEQ takes a change of the block set. -/
def seqTakesBlocks (b : BlockSet) (s : State) : State :=
  actOnPtoBlock { s with seq := { s.seq with
    blocks := b, pumpReady := pumpReadyFor s.seq.mode b } }

end Sys2Proof.Machine
end

