-- ==== Sys2Proof/Machine/Spd.lean ====
section
/-! DEFINITION. SPD: freshness, disagreement, recomputation, what is handed on (chapter 6). -/

namespace Sys2Proof.Machine

/-- R119: the length of the disagreement timer. -/
def disagreementLength : Nat := 2000

/-- R118: the speed value and the transmission state. -/
def combineSpeed (u : SpdUnit) : SpdUnit :=
  match u.freshness, u.report with
  | .fresh, some r => { u with value := max r.speed u.measured, transmission := r.transmission }
  | .fresh, none | .stale, _ => { u with value := u.measured, transmission := .unknown }

/-- R119: the reported and the measured speed differ by more than the tolerance. -/
def speedsDiffer (tolerance : Nat) (u : SpdUnit) : Bool :=
  match u.report with
  | none => false
  | some r => decide ((tolerance : Int) < ((r.speed : Int) - u.measured).natAbs)

/-- R119: the disagreement check, made while FRESH; `timer` is one started now. -/
def checkDisagreement (tolerance : Nat) (timer : Timer) (u : SpdUnit) : SpdUnit :=
  match u.freshness with
  | .stale => u
  | .fresh =>
    if speedsDiffer tolerance u then
      match u.disagreement with
      | .agree => { u with disagreement := .differing, disTimer := some timer }
      | .differing | .disagree => u
    else { u with disagreement := .agree, disTimer := none }

/-- R118: the speed record after a recomputation; `check` holds for those caused by a report or a
gate end. -/
def recomputed (check : Bool) (s : State) (u : SpdUnit) : SpdUnit :=
  if check then
    checkDisagreement (conf s).tolerances.speed (startTimer s disagreementLength) (combineSpeed u)
  else combineSpeed u

/-- R120: the subject of a SPEED_QUALITY notice (STALE 0, DISAGREE 1, RESTORED 2). -/
def qualitySubject (u : SpdUnit) : Nat :=
  match quality u, u.freshness with
  | .good, _ => 2
  | .degraded, .stale => 0
  | .degraded, .fresh => 1

/-- R121: what SPD hands on after a recomputation, `before` being its record before the event. -/
def handSpeed (check : Bool) (before : SpdUnit) (s : State) : State :=
  let u := s.spd
  let changed := quality u != quality before
  let s1 := if check || u.value != before.value || changed then
    arrive .spd .roadSpeed (some u.value) s else s
  let s2 := if changed then
    arrive .spd .speedQuality (some (qualityCode (quality u))) s1 else s1
  let s3 := if changed || u.transmission != before.transmission then
    arrive .spd .transmission (some (transmissionCode u.transmission)) s2 else s2
  let s4 := if changed || u.value != before.value then handOver .speedToSeq s3 else s3
  if changed then
    post .spd .speedQuality (qualitySubject u) (wordOfNat u.value) .subscribers s4
  else s4

/-- R118, R121: SPD takes on the record `u` that an event gives it, recomputes and hands on. -/
def recomputeSpeed (check : Bool) (u : SpdUnit) (s : State) : State :=
  handSpeed check s.spd { s with spd := recomputed check s u }

/-- R114, R119: the reports become stale. -/
def staleRecord (u : SpdUnit) : SpdUnit :=
  { u with freshness := .stale, staleTimer := none, disagreement := .agree, disTimer := none }

/-- R114, R116: the reports become stale, with the recomputation that follows. -/
def becomeStale (s : State) : State := recomputeSpeed false (staleRecord s.spd) s

/-- R114, R115: the freshness rules at a report from port `p` arriving at `now`, with `i` the report
interval. -/
def freshened (i : Nat) (p : Port) (now : Count32) (u : SpdUnit) : SpdUnit :=
  match u.freshness, u.report with
  | .fresh, _ => { u with staleTimer := some ⟨now, 3 * i⟩ }
  | .stale, some r =>
    if r.sender = p ∧ sinceCount now r.arrival ≤ i then
      { u with freshness := .fresh, disagreement := .agree, disTimer := none
               staleTimer := some ⟨now, 3 * i⟩ }
    else u
  | .stale, none => u

/-- R113: SPD takes a report. -/
def takeReport (p : Port) (speed : Nat) (x : Transmission) (engine : Bool) (s : State) : State :=
  recomputeSpeed true
    { freshened (conf s).rates.reportInterval p s.timeBase s.spd with
      report := some ⟨speed, x, engine, s.timeBase, p⟩ } s

/-- R117: the measured speed of a gate of `gate` ms with `count` pulses. -/
def measuredSpeed (count gate pulsesPerKm : Nat) : Nat :=
  min 1500 (truncatedQuotient (count * 36000000) (gate * pulsesPerKm))

/-- R117: LIO hands SPD a gate. -/
def takeGate (count gate : Nat) (s : State) : State :=
  recomputeSpeed true
    { s.spd with measured := measuredSpeed count gate (conf s).rates.pulsesPerKm } s

/-- R116: the report interval has been written. -/
def spdTakesInterval (s : State) : State :=
  match s.spd.freshness, s.spd.report with
  | .fresh, some r =>
    if 3 * (conf s).rates.reportInterval < sinceCount s.timeBase r.arrival then becomeStale s
    else
      { s with spd := { s.spd with
          staleTimer := some ⟨r.arrival, 3 * (conf s).rates.reportInterval⟩ } }
  | .fresh, none | .stale, _ => s

/-- R116: the SPEED_SOURCE right has moved to another port. -/
def spdTakesMove (s : State) : State :=
  match s.spd.freshness with
  | .fresh => becomeStale s
  | .stale => s

end Sys2Proof.Machine
end

