-- ==== Sys2Proof/Machine/Tnk.lean ====
section
/-! DEFINITION. TNK: levels, volumes, states, supply, the tank valve and the fill (chapter 5). -/

namespace Sys2Proof.Machine

/-! ### Levels and volumes -/

/-- R91: tank 0's combined level, none with fewer than two good gauges. -/
def combinedLevel (front centre rear : Reading) : Option Int :=
  match front.good, rear.good, centre.good with
  | true, true, _ => some (Int.tdiv (front.level.getD 0 + rear.level.getD 0 + 1) 2)
  | true, false, true | false, true, true => centre.level
  | true, false, false | false, true, false | false, false, _ => none

/-- R94: the filter factor k. -/
def filterFactor (s : State) : Int := if s.spd.value = 0 ∧ s.seq.mode ≠ .roll then 8 else 1

/-- R94: one step of the filter towards L. -/
def filterStep (k lf l : Int) : Int :=
  let delta := l - lf
  let step := Int.tdiv (delta * k) 16
  if step = 0 ∧ delta ≠ 0 then if 0 < delta then lf + 1 else lf - 1 else lf + step

/-- R96: the volume at a filtered level that lies at or above the first point of the list. -/
def volumeAbove : List StrapPoint → Int → Int
  | [], _ => 0
  | [q], _ => q.volume
  | q :: q' :: rest, lf =>
    if lf < q'.level then
      q.volume + Int.tdiv ((lf - q.level) * ((q'.volume : Int) - q.volume))
        ((q'.level : Int) - q.level)
    else volumeAbove (q' :: rest) lf

/-- R96: the volume of a filtered level. -/
def volumeOf (table : List StrapPoint) (lf : Int) : Int :=
  match table with
  | [] => 0
  | q :: _ => if lf < q.level then q.volume else volumeAbove table lf

/-! ### States -/

/-- R98: the plain state of a volume. -/
def plainState (t : TankThresholds) (v : Int) : TankState :=
  if v ≤ t.empty then .empty else if v ≤ t.low then .low else if t.full ≤ v then .full else .normal

/-- R98: the state held, kept while V lies in its band. -/
def nextTankState (t : TankThresholds) (held : TankState) (v : Int) : TankState :=
  match held with
  | .unknown => plainState t v
  | .empty => if v ≤ t.empty + t.hv then .empty else plainState t v
  | .low => if t.empty < v ∧ v ≤ t.low + t.hv then .low else plainState t v
  | .normal => if t.low < v ∧ v < t.full then .normal else plainState t v
  | .full => if (t.full : Int) - t.hv ≤ v then .full else plainState t v

/-- R94 to R96, R98: a tank's record at a recomputation that gives the combined level `l`. -/
def tankAtLevel (k : Int) (table : List StrapPoint) (t : TankThresholds) (tank : Tank) (l : Int) :
    Tank :=
  let lf := match tank.lf with
    | none => l
    | some lf => filterStep k lf l
  let v := volumeOf table lf
  ⟨some l, some lf, some v, nextTankState t tank.state v⟩

/-- R95: a tank's record at a recomputation that gives the combined level or none. -/
def tankAfter (k : Int) (table : List StrapPoint) (t : TankThresholds) (tank : Tank) :
    Option Int → Tank
  | some l => tankAtLevel k table t tank l
  | none => { tank with l := none, state := .unknown }

/-! ### Hand-overs of a recomputation -/

/-- R100, points 2 and 3: the volume and state arrivals and TANK_STATE. -/
def handTank (number : Nat) (volume state : Source) (combined : Option Int) (old new : Tank)
    (s : State) : State :=
  let s1 := if combined.isSome || (old.state != .unknown) then arrive .tnk volume new.v s else s
  if new.state = old.state then s1
  else
    post .tnk .tankState number
      (bytesWord (tankStateCode new.state) (tankStateCode old.state)) .subscribers
      (arrive .tnk state (some (tankStateCode new.state)) s1)

/-- R92: the gauge disagreement check on the combined level. -/
def checkGauges (l : Int) (s : State) : State :=
  let centre := s.tnk.centre.level.getD 0
  if s.tnk.front.good && s.tnk.rear.good && s.tnk.centre.good then
    if ((conf s).tolerances.gauge : Int) < (centre - l).natAbs then
      if s.tnk.episode then s
      else
        post .tnk .sensor (packFields [(4, 3), (4, 0)]) (wordOfInt (centre - l)) .subscribers
          { s with tnk := { s.tnk with episode := true } }
    else { s with tnk := { s.tnk with episode := false } }
  else s

/-- `checkGauges` where a combined level was formed. -/
def checkGaugesIf : Option Int → State → State
  | none, s => s
  | some l, s => checkGauges l s

/-! ### The valves and the fill -/

/-- R102: TANK_VALVE is commanded. -/
def commandTankValve (s : State) : State :=
  { s with tnk := { s.tnk with tankValve := tankValveFor s.tnk.supply s.tnk.mode s.tnk.blocks } }

/-- R109: a FILL_ENDED subject. -/
def endedSubject (why : FillEnding) (stopper : Nat) : Nat :=
  packFields [(4, fillEndingCode why), (4, stopper)]

/-- R109: an open fill ends; `stopper` is the stopping port's code for STOPPED and 0 otherwise. -/
def endFill (why : FillEnding) (stopper : Nat) (s : State) : State :=
  match s.tnk.fill with
  | none => s
  | some f =>
    arrive .tnk .fillActive (some 0)
      (post .tnk .fillEnded (endedSubject why stopper) (wordOfInt (s.tnk.tank0.v.getD 0))
        (.subscribersAnd f.requester)
        { s with tnk := { s.tnk with fill := none, fillValve := false } })

/-- The fill record after a rise or a resumption (R107, R108): level and time taken, window
started. -/
def restartStall (s : State) (f : Fill) : Fill :=
  { f with
    riseLevel := s.tnk.tank0.lf.getD 0
    riseTime := s.timeBase
    stall := some (startTimer s ((conf s).fillItems.stallSec * 1000)) }

/-- R107: the stall check at a recomputation of tank 0. -/
def stallCheck (s : State) : State :=
  match s.tnk.fill with
  | none => s
  | some f =>
    if !f.suspended &&
        decide (f.riseLevel + (conf s).fillItems.minRise ≤ s.tnk.tank0.lf.getD 0) then
      { s with tnk := { s.tnk with fill := some (restartStall s f) } }
    else s

/-- R106: the ending checks of an open fill at a recomputation of tank 0. -/
def checkFill (s : State) : State :=
  match s.tnk.fill with
  | none => s
  | some f =>
    if s.tnk.tank0.state = .unknown then endFill .unknown 0 s
    else if s.tnk.tank0.state = .full then endFill .full 0 s
    else if (f.target : Int) ≤ s.tnk.tank0.v.getD 0 then endFill .reached 0 s
    else stallCheck s

/-- R108: the suspension of the stall check follows the supply and the mode. -/
def suspendStall (s : State) : State :=
  match s.tnk.fill with
  | none => s
  | some f =>
    match f.suspended, stallSuspended s.tnk.supply s.tnk.mode with
    | false, true =>
      { s with tnk := { s.tnk with fill := some { f with suspended := true, stall := none } } }
    | true, false =>
      { s with tnk := { s.tnk with fill := some { restartStall s f with suspended := false } } }
    | false, false | true, true => s

/-! ### What CNV, SEQ and LKT hand TNK -/

/-- R90: the recomputation of tank 0. -/
def recomputeTank0 (s : State) : State :=
  let l := combinedLevel s.tnk.front s.tnk.centre s.tnk.rear
  let new := tankAfter (filterFactor s) (conf s).strap0 (conf s).tank0 s.tnk.tank0 l
  checkFill
    (handTank 0 .tank0Volume .tank0State l s.tnk.tank0 new
      (checkGaugesIf l { s with tnk := { s.tnk with tank0 := new } }))

/-- R93: tank 1's combined level. -/
def tank1Level (r : Reading) : Option Int := if r.good then r.level else none

/-- R90, R93: the recomputation of tank 1. -/
def recomputeTank1 (s : State) : State :=
  let l := tank1Level s.tnk.second
  let new := tankAfter (filterFactor s) (conf s).strap1 (conf s).tank1 s.tnk.tank1 l
  handTank 1 .tank1Volume .tank1State l s.tnk.tank1 new
    { s with tnk := { s.tnk with tank1 := new } }

/-- R90: an arrival of a level channel. -/
def tnkTakesLevel (channel : Nat) (v : Int) (faulted : Bool) (s : State) : State :=
  let r : Reading := ⟨some v, !faulted⟩
  match channel with
  | 2 => recomputeTank0 { s with tnk := { s.tnk with front := r } }
  | 3 => recomputeTank0 { s with tnk := { s.tnk with centre := r } }
  | 4 => recomputeTank0 { s with tnk := { s.tnk with rear := r } }
  | 5 => recomputeTank1 { s with tnk := { s.tnk with second := r } }
  | _ => s

/-- R102, R108, R109: a mode transition. -/
def tnkTakesMode (m : Mode) (s : State) : State :=
  let s1 := commandTankValve { s with tnk := { s.tnk with mode := m } }
  if m = .parked ∨ m = .pump then suspendStall s1 else endFill .mode 0 s1

/-- R102, R109: a change of the block set. -/
def tnkTakesBlocks (b : BlockSet) (s : State) : State :=
  let s1 := commandTankValve { s with tnk := { s.tnk with blocks := b } }
  if holdsBlock b .fill then endFill .blocked 0 s1 else s1

/-- R99: tank 0's FULL has been written. -/
def tnkTakesFull (s : State) : State :=
  match s.tnk.fill with
  | none => s
  | some f =>
    { s with tnk := { s.tnk with fill := some { f with target := min f.target (conf s).tank0.full } } }

end Sys2Proof.Machine
end

