-- ==== Sys2Proof/Machine/Deliver.lean ====
section
/-! DEFINITION. A step: its time, its effect, and the hand-overs under way, taken one by one. -/

namespace Sys2Proof.Machine

/-- The unit that takes a hand-over acts on it ("Signal paths" of 00_scope.md). -/
def deliver (h : Handover) (s : State) : State :=
  match h with
  | .notice _ n dest => placeNotice n dest s
  | .wordToSeq word => seqTakesWord word s
  | .releaseToSeq => seqTakesRelease s
  | .speedToSeq => rederive s
  | .pumpToSeq np => seqTakesPump np s
  | .blocksToSeq b => seqTakesBlocks b s
  | .blocksToGov b => govTakesBlocks b s
  | .blocksToTnk b => tnkTakesBlocks b s
  | .arrival _ x v => lktTakesArrival x v s
  | .modeToLkt m => lktTakesMode m s
  | .modeToGov m => govTakesMode m s
  | .modeToTnk m => tnkTakesMode m s
  | .dischargeToGov v faulted => govTakesDischarge v faulted s
  | .intakeToGov v faulted => govTakesIntake v faulted s
  | .levelToTnk channel v faulted => tnkTakesLevel channel v faulted s
  | .supplyToGov x => govTakesSupply x s

/-- Who hands on and who takes. -/
def path : Handover → UnitName × UnitName
  | .notice sender _ _ => (sender, .ntq)
  | .wordToSeq _ => (.lio, .seq)
  | .releaseToSeq => (.seq, .seq)
  | .speedToSeq => (.spd, .seq)
  | .pumpToSeq _ => (.lio, .seq)
  | .blocksToSeq _ => (.lkt, .seq)
  | .blocksToGov _ => (.lkt, .gov)
  | .blocksToTnk _ => (.lkt, .tnk)
  | .arrival sender _ _ => (sender, .lkt)
  | .modeToLkt _ => (.seq, .lkt)
  | .modeToGov _ => (.seq, .gov)
  | .modeToTnk _ => (.seq, .tnk)
  | .dischargeToGov _ _ => (.cnv, .gov)
  | .intakeToGov _ _ => (.cnv, .gov)
  | .levelToTnk _ _ _ => (.cnv, .tnk)
  | .supplyToGov _ => (.tnk, .gov)

/-- The hand-overs that may be taken next, each with those that stand when it is gone: the oldest of
each path, since what one unit hands another is taken in the order handed (R48, R100, R151).
`passed` are those already looked at. -/
def takable (passed : List Handover) : List Handover → List (Handover × List Handover)
  | [] => []
  | h :: rest =>
    if passed.any (fun g => path g == path h) then takable (passed ++ [h]) rest
    else (h, passed ++ rest) :: takable (passed ++ [h]) rest

/-- The hand-over taken next: the oldest of those that may be taken, or the one that the pick names,
counted round (log entry 2). -/
def nextHandover (picks : List Nat) (hand : List Handover) : Option (Handover × List Handover) :=
  let choices := takable [] hand
  choices[picks.headD 0 % choices.length]?

/-- Hand-overs are taken until none is left, at most `bound` of them. -/
def settle : Nat → List Nat → State → State
  | 0, _, s => s
  | bound + 1, picks, s =>
    match nextHandover picks s.hand with
    | none => s
    | some (h, rest) => settle bound picks.tail (deliver h { s with hand := rest })

/-- No fewer hand-overs than those under way can lead to: 501 for each, 285 for what the records of
SEQ, GOV and TNK may add once (Sys2Proof/Laws/Potential.lean; log entry 11). -/
def settleBound (s : State) : Nat := 501 * s.hand.length + 285

/-- Every hand-over under way is taken, and every one that this causes. -/
def settleAll (picks : List Nat) (s : State) : State := settle (settleBound s) picks s

/-- Time passes before a command.  Hand-overs that the steps before it left are taken first where
any time passes, and still stand where none does. -/
def pass (dt : Nat) (s : State) : State := advance dt (if dt = 0 then s else settleAll [] s)

/-- The hand-overs that a step takes: all, or as many as its circumstances say (log entry 17). -/
def takeHandovers (w : When) (s : State) : State :=
  match w.takes with
  | none => settleAll w.picks s
  | some n => settle n w.picks s

/-- A command: its time passes, it has its own effect, and hand-overs are taken. -/
def happen (w : When) (f : State → State) (s : State) : Host.Outcome State Fault Refusal :=
  .next (takeHandovers w (f (pass w.dt s)))

/-- A command that has an effect only once the start-up load has ended (R138, R162). -/
def whenRunning (f : State → State) (s : State) : State :=
  if s.phase = .running then f s else s

end Sys2Proof.Machine
end

