-- ==== Sys2Proof/Machine/Lines.lean ====
section
/-! DEFINITION. Commands at the lines: inputs, pulses, gates, conversions, the PWM (chapter 7). -/

namespace Sys2Proof.Machine

/-- INPUT_SAMPLE (R122, R123). -/
def execInputSample (w : When) (lines : Levels) (s : State) : Host.Outcome State Fault Refusal :=
  happen w (whenRunning (fun s =>
    { s with lio := { s.lio with
        inputs := sampleInputs (startTimer s (conf s).timing.debounce) lines s.lio.inputs } })) s

/-- R123, R124: a change is accepted; the word is published once the first publication has been
made (log entry 12). -/
def acceptInput (i : DiscreteInput) (s : State) : State :=
  let s1 := { s with lio := { s.lio with
      inputs := inputSet s.lio.inputs i (accepted (inputGet s.lio.inputs i)) } }
  if s.lio.published then publishWord s1 else s1

/-- STABILITY_TIMER_EXPIRY (R123). -/
def execStabilityTimerExpiry (w : When) (i : DiscreteInput) (s : State) :
    Host.Outcome State Fault Refusal :=
  happen w (whenRunning (fun s =>
    if timerDue s.timeBase (inputGet s.lio.inputs i).timer then acceptInput i s else s)) s

/-- TACH_EDGE (R125). -/
def execTachEdge (w : When) (s : State) : Host.Outcome State Fault Refusal :=
  happen w (whenRunning (fun s =>
    publishPump { s with lio := { s.lio with
      np := speedAtEdge s, prevEdge := some s.usCount
      silence := some (startTimer s silenceLength) } })) s

/-- SILENCE_TIMER_EXPIRY (R126). -/
def execSilenceTimerExpiry (w : When) (s : State) : Host.Outcome State Fault Refusal :=
  happen w (whenRunning (fun s =>
    if timerDue s.timeBase s.lio.silence then
      publishPump { s with lio := { s.lio with np := 0, prevEdge := none, silence := none } }
    else s)) s

/-- ROAD_PULSE_EDGE (R127). -/
def execRoadPulseEdge (w : When) (s : State) : Host.Outcome State Fault Refusal :=
  happen w (whenRunning (fun s =>
    { s with lio := { s.lio with gateCount := min 65535 (s.lio.gateCount + 1) } })) s

/-- GATE_END (R117, R127). -/
def execGateEnd (w : When) (s : State) : Host.Outcome State Fault Refusal :=
  happen w (whenRunning (fun s =>
    match s.lio.gate with
    | none => s
    | some g =>
      if timerDue s.timeBase (some g) then takeGate s.lio.gateCount g.length (startGate s)
      else s)) s

/-- SCAN_PERIOD_EXPIRY (R129, R130).  An expiry that comes while entries of the scan are still to
convert drops them and starts the next scan (DESIGN CHOICE, log entry 37). -/
def execScanPeriodExpiry (w : When) (s : State) : Host.Outcome State Fault Refusal :=
  happen w (whenRunning (fun s =>
    if timerDue s.timeBase s.cnv.scanPeriod then startScan s else s)) s

/-- CONVERSION_COMPLETION (R129, R134): a conversion completes 100 µs after it begins. -/
def execConversionCompletion (w : When) (code : BitVec 12) (s : State) :
    Host.Outcome State Fault Refusal :=
  happen w (whenRunning (fun s =>
    match s.cnv.toConvert with
    | [] => s
    | channel :: rest =>
      if conversionTime ≤ sinceCount s.usCount s.cnv.begun then
        completeConversion channel rest code.toNat s
      else s)) s

/-- THROTTLE_PWM_PERIOD_START (R136). -/
def execThrottlePwmPeriodStart (w : When) (s : State) : Host.Outcome State Fault Refusal :=
  happen w (whenRunning (fun s =>
    match s.lio.throttle.periodStart with
    | none => s
    | some t => if pwmPeriod ≤ sinceCount s.usCount t then startPwm s else s)) s

end Sys2Proof.Machine
end

