-- ==== Sys2Proof/Machine/Links.lean ====
section
/-! DEFINITION. LNK: frames, the status word, answers (chapter 8). -/

namespace Sys2Proof.Machine

/-- R141: the status word of port `p`. -/
def statusWord (s : State) (p : Port) : Word :=
  packWord
    [ (3, modeCode s.seq.mode), (1, bit s.lkt.drivePermit), (1, bit (attention (portGet s.ntq p))),
      (1, bit (portGet s.links p).frameError), (1, bit s.cfg.storeBusy),
      (1, bit s.cfg.configInvalid), (1, bit ((portGet s.ntq p).lost != 0)) ]

/-- R142: an answer's header and data; where none is pending, kind NONE, no result and length 0. -/
def answerWords : Option Answer → List Word
  | none => [0]
  | some a =>
    packWord [(4, a.data.length), (4, resultCode a.result), (8, requestCode a.request)] :: a.data

/-- R139, R143: the link at a select fall, `status` being the word sampled. -/
def linkAtFall (status : Word) (l : Link) : Link :=
  match l.state with
  | .idle =>
    { l with
      state := .receiving, words := 0, header := none, args := [], discard := false
      outgoing := some (status :: answerWords l.answer), answer := none, frameError := false
      selectLow := true, wordOut := 0 }
  | .preparing =>
    { l with
      state := .receiving, words := 0, header := none, args := [], discard := true
      outgoing := some [status, 0], frameError := false, selectLow := true, wordOut := 0 }
  | .receiving => { l with selectLow := true }

/-- SELECT_FALL (R139, R141, R143).  Before the end of the start-up load the link takes no notice
of its select line (R138). -/
def execSelectFall (w : When) (p : Port) (s : State) : Host.Outcome State Fault Refusal :=
  happen w (fun s =>
    if s.phase = .running then
      if (portGet s.links p).selectLow then s else updateLink p (linkAtFall (statusWord s p)) s
    else updateLink p (fun l => { l with selectLow := true }) s) s

/-- R139: the header's kind and count. -/
def headerOf (word : Word) : Header := ⟨fieldOf word 8 8, fieldOf word 0 8⟩

/-- R139: the link when a word completes; nothing beyond the eleventh word differs from it. -/
def linkAtWord (word : Word) (l : Link) : Link :=
  match l.state with
  | .receiving =>
    { l with
      words := min 11 (l.words + 1)
      header := if l.words = 0 then some (headerOf word) else l.header
      args :=
        if 1 ≤ l.words ∧ l.words ≤ 9 ∧ l.words ≤ (l.header.map Header.count).getD 0 then
          l.args ++ [word]
        else l.args
      discard := l.discard || decide (10 ≤ l.words)
      wordOut := (l.outgoing.getD []).getD l.words 0 }
  | .idle | .preparing => { l with wordOut := 0 }

/-- WORD_COMPLETION (R139). -/
def execWordCompletion (w : When) (p : Port) (word : Word) (s : State) :
    Host.Outcome State Fault Refusal :=
  happen w (updateLink p (linkAtWord word)) s

/-- R140: the request of a frame that passes the checks, none for a frame to discard. -/
def requestOfFrame (part : Bool) (l : Link) : Option RequestKind :=
  match l.header with
  | none => none
  | some h =>
    match requestOfCode h.kind with
    | none => none
    | some k =>
      if part || l.discard || decide (h.count ≠ argumentCount k) ||
          decide (l.words < 1 + h.count) then none
      else some k

/-- R139, R140, R143: the link when its frame ends.  What the frame held is cleared with it (log
entry 13). -/
def linkAtRise (part : Bool) (l : Link) : Link :=
  match l.state with
  | .receiving =>
    { l with
      state :=
        if (requestOfFrame part l).isSome || l.preparation.isSome then .preparing else .idle
      preparation :=
        match requestOfFrame part l with
        | some k => some (.asked k l.args)
        | none => l.preparation
      frameError := l.frameError || (requestOfFrame part l).isNone
      words := 0, header := none, args := [], discard := false, outgoing := none
      selectLow := false, wordOut := 0 }
  | .idle | .preparing => { l with selectLow := false }

/-- SELECT_RISE (R139, R140). -/
def execSelectRise (w : When) (p : Port) (part : Bool) (s : State) :
    Host.Outcome State Fault Refusal :=
  happen w (updateLink p (linkAtRise part)) s

/-- R139, R143: the link when the answer completes. -/
def linkAtAnswer (l : Link) : Link :=
  match l.preparation with
  | some (.answered a) =>
    { l with
      answer := some a, preparation := none
      state := if l.state = .preparing then .idle else l.state }
  | some (.asked _ _) | none => l

/-- ANSWER_COMPLETION (R139, R143). -/
def execAnswerCompletion (w : When) (p : Port) (s : State) : Host.Outcome State Fault Refusal :=
  happen w (updateLink p linkAtAnswer) s

end Sys2Proof.Machine
end

