-- ==== Sys2Proof/Machine/ModeRequests.lean ====
section
/-! DEFINITION. REQUEST_MODE: ENGAGE, ROLL, STOP_ROLL, DISENGAGE (chapter 2). -/

namespace Sys2Proof.Machine

/-! ### Admission -/

/-- Section 11.1: the REQUEST_MODE kinds. -/
def engageKind : Nat := 0
def rollKind : Nat := 1
def stopRollKind : Nat := 2
def disengageKind : Nat := 3

/-- R28: the three checks before a request of kind `own` reaches SEQ; `needsRoll` holds for ROLL
and STOP_ROLL. -/
def admitMode (p : Port) (own : Nat) (needsRoll : Bool) (decide_ : State → State × Result)
    (args : List Word) (s : State) : State × Result × List Word :=
  if portRank s p = 0 then refuse .noRight s
  else if argAt args 0 ≠ own then refuse .badArgument s
  else if needsRoll && !portHolds s p .roll then refuse .noRight s
  else ((decide_ s).1, (decide_ s).2, [])

/-- A REQUEST_MODE is a step of the row whose kind it carries; one whose kind is none of the four
is answered alike whichever row takes it (log entry 14). -/
def namesKind (own : Nat) (s : State) (p : Port) : Bool :=
  match askedOf s p .requestMode with
  | none => false
  | some args => argAt args 0 == own || decide (disengageKind < argAt args 0)

/-- The step of a REQUEST_MODE row. -/
def serveMode (p : Port) (own : Nat) (needsRoll : Bool) (decide_ : State → State × Result)
    (s : State) : State :=
  if namesKind own s p then serve p .requestMode (admitMode p own needsRoll decide_) s else s

/-! ### ENGAGE -/

/-- R32: an ENGAGE in SHIFTING_IN. -/
def engageInShift (p : Port) (s : State) : State × Result :=
  match s.seq.request with
  | none => (s, .busy)
  | some r =>
    if portRank s r.requester < portRank s p then
      (openRequest p .engage (postOutcome .superseded (portCode p) s), .taken)
    else (s, .busy)

/-- R31. -/
def decideEngage (p : Port) (s : State) : State × Result :=
  if s.cfg.storeBusy then (s, .busy)
  else
    match s.seq.mode with
    | .init | .stuck => (s, .condition)
    | .road => (s, if holdsBlock s.seq.blocks .pto then .blocked else .condition)
    | .parked => if holdsBlock s.seq.blocks .pto then (s, .blocked) else (startShift p s, .taken)
    | .shiftingIn => engageInShift p s
    | .pump | .roll => (s, .ok)
    | .disengaging => (s, .busy)

/-- ENGAGE (R28, R31). -/
def execEngage (w : When) (p : Port) (s : State) : Host.Outcome State Fault Refusal :=
  happen w (whenRunning (serveMode p engageKind false (decideEngage p))) s

/-! ### ROLL and STOP_ROLL -/

/-- R35: the transmission is fit to creep. -/
def fitToCreep : Transmission → Bool
  | .neutral | .lowRange => true
  | _ => false

/-- R35, R14; R24 at the entry to ROLL.  The block set is LKT's own: row 4 ACTIVE before SEQ takes the
ROLL gives BLOCKED, whether or not the set has been handed on (log entry 28). -/
def decideRoll (s : State) : State × Result :=
  if s.seq.mode ≠ .pump then (s, .condition)
  else if holdsBlock s.lkt.blocks .roll then (s, .blocked)
  else if quality s.spd == .good && (conf s).fillItems.rollEnabled &&
      fitToCreep s.spd.transmission then
    (actOnPtoBlock (transition .roll none .request s), .ok)
  else (s, .condition)

/-- ROLL (R28, R35). -/
def execRoll (w : When) (p : Port) (s : State) : Host.Outcome State Fault Refusal :=
  happen w (whenRunning (serveMode p rollKind true decideRoll)) s

/-- R36, R15; R24 at the entry to PUMP. -/
def decideStopRoll (s : State) : State × Result :=
  if s.seq.mode == .roll && s.spd.value == 0 && secured s then
    (actOnPtoBlock (transition .pump none .request s), .ok)
  else (s, .condition)

/-- STOP_ROLL (R28, R36). -/
def execStopRoll (w : When) (p : Port) (s : State) : Host.Outcome State Fault Refusal :=
  happen w (whenRunning (serveMode p stopRollKind true decideStopRoll)) s

/-! ### DISENGAGE -/

/-- R13: a DISENGAGE in SHIFTING_IN. -/
def disengageInShift (p : Port) (s : State) : State :=
  enterRelease .request (openRequest p .disengage (postOutcome .superseded (portCode p) s))

/-- R34: a DISENGAGE in DISENGAGING. -/
def takeDisengage (p : Port) (s : State) : State :=
  match s.seq.request with
  | none => openRequest p .disengage s
  | some r =>
    if r.requester = p then s
    else openRequest p .disengage (postOutcome .superseded (portCode p) s)

/-- R33. -/
def decideDisengage (p : Port) (s : State) : State × Result :=
  match s.seq.mode with
  | .init | .road | .parked | .stuck => (s, .ok)
  | .shiftingIn => (disengageInShift p s, .taken)
  | .pump | .roll => (enterSpinDown .request (openRequest p .disengage s), .taken)
  | .disengaging => (takeDisengage p s, .taken)

/-- DISENGAGE (R28, R33). -/
def execDisengage (w : When) (p : Port) (s : State) : Host.Outcome State Fault Refusal :=
  happen w (whenRunning (serveMode p disengageKind false (decideDisengage p))) s

end Sys2Proof.Machine
end

