-- ==== Sys2Proof/Machine/Reads.lean ====
section
/-! DEFINITION. The requests that need no right: the five reads and POST_NOTE (R147, R68, R152, R155, R159, R153). -/

namespace Sys2Proof.Machine

/-! ### READ_STATUS (R147, section 11.3) -/

/-- An absent value reads 0 in its own word (R165). -/
def wordOrZero (v : Option Int) : Word := wordOfInt (v.getD 0)

def statusPage0 (s : State) : List Word :=
  [ packWord [(3, modeCode s.seq.mode), (2, subStageCode s.seq.sub), (3, reasonCode s.seq.reason)],
    packWord
      [ (1, bit s.seq.request.isSome),
        (2, (s.seq.request.map (fun r => portCode r.requester)).getD 0),
        (2, (s.seq.request.map (fun r => operationCode r.kind)).getD 0) ],
    (s.seq.request.map (fun r => lowWord r.taken)).getD 0,
    packWord [(6, s.lkt.blocks.toNat), (2, holderCode s.lkt.lock)],
    packWord
      [ (1, bit s.seq.ptoShift), (1, bit s.tnk.tankValve), (1, bit s.tnk.fillValve),
        (1, bit (s.lio.throttle.commanded != 0)), (1, bit s.lkt.drivePermit),
        (1, bit s.seq.pumpReady) ],
    packWord
      [ (4, if s.lio.published then inputWord s.lio.inputs else 0), (1, bit (!s.lio.published)) ],
    wordOfNat s.lio.np ]

def statusPage1 (s : State) : List Word :=
  [ packWord
      [(2, governingCode s.gov.governing), (2, watchCode s.gov.watch), (1, bit s.gov.faultMark)],
    wordOfNat s.gov.sp, wordOfNat s.gov.sn, wordOfNat s.gov.d, wordOfNat s.gov.c,
    wordOfInt s.gov.ePrev ]

def statusPage2 (s : State) : List Word :=
  [ packWord
      [ (3, tankStateCode s.tnk.tank0.state), (3, tankStateCode s.tnk.tank1.state),
        (1, supplyCode s.tnk.supply), (1, bit s.tnk.tank0.lf.isNone), (1, bit s.tnk.tank0.v.isNone),
        (1, bit s.tnk.tank1.lf.isNone), (1, bit s.tnk.tank1.v.isNone) ],
    wordOrZero s.tnk.tank0.lf, wordOrZero s.tnk.tank0.v, wordOrZero s.tnk.tank1.lf,
    wordOrZero s.tnk.tank1.v ]

/-- Page 3; with no fill open its fields read 0 (R165). -/
def statusPage3 (s : State) : List Word :=
  match s.tnk.fill with
  | none => [0, 0, 0, 0, 0]
  | some f =>
    [ packWord [(1, 1), (2, portCode f.requester), (1, bit f.suspended)],
      wordOfNat f.target, lowWord f.start, wordOfInt f.riseLevel, lowWord f.riseTime ]

/-- Page 4; with no last report its fields read 0 (R165). -/
def statusPage4 (s : State) : List Word :=
  (match s.spd.report with
    | none => [0, 0, 0]
    | some r =>
      [ packWord
          [ (1, 1), (3, transmissionCode r.transmission), (1, bit r.engine),
            (2, portCode r.sender) ],
        wordOfNat r.speed, lowWord r.arrival ]) ++
  [ packWord
      [ (1, freshnessCode s.spd.freshness), (2, disagreementCode s.spd.disagreement),
        (1, qualityCode (quality s.spd)), (2, degradedCause s.spd),
        (3, transmissionCode s.spd.transmission) ],
    wordOfNat s.spd.measured, wordOfNat s.spd.value ]

def statusPage5 (s : State) : List Word :=
  [0, 1, 2, 3, 4, 5, 6, 7].map (fun n => wordOfInt (channelOf s n).value)

def statusPage6 (s : State) : List Word :=
  [ packWord
      ([0, 1, 2, 3, 4, 5, 6, 7].map (fun n => (1, bit (channelOf s n).faulted)) ++
        [0, 1, 2, 3, 4, 5, 6, 7].map (fun n => (1, bit (channelOf s n).goodTaken))),
    packWord ([0, 1, 2, 3, 4, 5, 6, 7].map (fun n => (2, (channelOf s n).run))) ]

/-- The data of a page, none outside 0..6. -/
def statusPage (s : State) : Nat → Option (List Word)
  | 0 => some (statusPage0 s)
  | 1 => some (statusPage1 s)
  | 2 => some (statusPage2 s)
  | 3 => some (statusPage3 s)
  | 4 => some (statusPage4 s)
  | 5 => some (statusPage5 s)
  | 6 => some (statusPage6 s)
  | _ => none

/-- R147. -/
def decideReadStatus (args : List Word) (s : State) : State × Result × List Word :=
  match statusPage s (argAt args 0) with
  | some data => (s, .ok, data)
  | none => refuse .badArgument s

/-- READ_STATUS (R147). -/
def execReadStatus (w : When) (p : Port) (s : State) : Host.Outcome State Fault Refusal :=
  happen w (whenRunning (serve p .readStatus decideReadStatus)) s

/-! ### READ_ROW -/

/-- R68: the row's source is faulted; row 6 has none that can be (R61). -/
def rowFaulted (s : State) (i : Nat) : Bool := sourceFaulted s (rowRecord (conf s) i).source

/-- R68, section 11.3: the eight data words of a row. -/
def rowAnswer (s : State) (i : Nat) : List Word :=
  rowWords (rowRecord (conf s) i) ++
  [ packWord
      [ (3, rowStateCode (rowSlot s i).state), (1, bit (rowFaulted s i)), (4, 0), (8, i) ],
    wordOfNat
      (if (rowSlot s i).state = .holding then timerLeft s.timeBase (rowSlot s i).timer else 0) ]

/-- R68. -/
def decideReadRow (args : List Word) (s : State) : State × Result × List Word :=
  if argAt args 0 < 24 then (s, .ok, rowAnswer s (argAt args 0)) else refuse .badArgument s

/-- READ_ROW (R68). -/
def execReadRow (w : When) (p : Port) (s : State) : Host.Outcome State Fault Refusal :=
  happen w (whenRunning (serve p .readRow decideReadRow)) s

/-! ### READ_NOTICE -/

/-- Section 11.3: the first three words of a READ_NOTICE answer; kind NONE for no record. -/
def noticeWords : Option Notice → List Word
  | none => [0, 0, 0]
  | some n => [packWord [(8, n.subject.toNat), (4, noticeCode n.kind)], n.value, n.stamp]

/-- R152: the record and the lost count leave NTQ as the request is taken. -/
def decideReadNotice (p : Port) (_ : List Word) (s : State) : State × Result × List Word :=
  (updateNtq p (fun q => { q with queue := q.queue.tail, lost := 0 }) s, .ok,
    noticeWords (portGet s.ntq p).queue.head? ++ [wordOfNat (portGet s.ntq p).lost])

/-- READ_NOTICE (R152).  R152 has NTQ take it in the event in which LNK hands it on and R139 in an event
at the owner after the rise; that it is a step of its own, which may follow SELECT_RISE after other
commands and time, is the model's choice (DESIGN CHOICE, log entry 39). -/
def execReadNotice (w : When) (p : Port) (s : State) : Host.Outcome State Fault Refusal :=
  happen w (whenRunning (serve p .readNotice (decideReadNotice p))) s

/-! ### READ_RESET_CAUSE -/

/-- Section 11.1: a cause's code, 0 for NONE. -/
def causeOrNone : Option ResetCause → Nat
  | none => 0
  | some c => causeCode c

/-- R155. -/
def decideReadResetCause (p : Port) (_ : List Word) (s : State) : State × Result × List Word :=
  (updateNtq p (fun q => { q with causes := withoutCause q.causes (firstCause q.causes) }) s, .ok,
    [wordOfNat (causeOrNone (firstCause (portGet s.ntq p).causes))])

/-- READ_RESET_CAUSE (R155). -/
def execReadResetCause (w : When) (p : Port) (s : State) : Host.Outcome State Fault Refusal :=
  happen w (whenRunning (serve p .readResetCause (decideReadResetCause p))) s

/-! ### READ_CONFIG -/

/-- R159, section 11.3: the eight data words of a part. -/
def configAnswer (s : State) (item part : Nat) : List Word :=
  bytesWord item part :: partWords (conf s) item part

/-- R159. -/
def decideReadConfig (args : List Word) (s : State) : State × Result × List Word :=
  if argAt args 1 < partCount (argAt args 0) then
    (s, .ok, configAnswer s (argAt args 0) (argAt args 1))
  else refuse .badArgument s

/-- READ_CONFIG (R159). -/
def execReadConfig (w : When) (p : Port) (s : State) : Host.Outcome State Fault Refusal :=
  happen w (whenRunning (serve p .readConfig decideReadConfig)) s

/-! ### POST_NOTE -/

/-- R153; the subject by section 11.3. -/
def decidePostNote (p : Port) (args : List Word) (s : State) : State × Result × List Word :=
  match portOfCode (argAt args 0) with
  | none => refuse .badArgument s
  | some target =>
    if argAt args 1 ≤ 63 then
      (post .ntq .note (packFields [(6, argAt args 1), (2, portCode p)]) (args.getD 2 0)
        (.only target) s, .ok, [])
    else refuse .badArgument s

/-- POST_NOTE (R153). -/
def execPostNote (w : When) (p : Port) (s : State) : Host.Outcome State Fault Refusal :=
  happen w (whenRunning (serve p .postNote (decidePostNote p))) s

end Sys2Proof.Machine
end

