-- ==== Sys2Proof/Machine/Requests.lean ====
section
/-! DEFINITION. The requests to SPD, GOV, TNK and LKT (chapters 3 to 6). -/

namespace Sys2Proof.Machine

/-! ### REPORT_SPEED -/

/-- R146, section 11.3: the data of REPORT_SPEED, in every answer. -/
def speedData (s : State) : List Word :=
  [ wordOfNat s.spd.value,
    packWord [(1, qualityCode (quality s.spd)), (3, transmissionCode s.spd.transmission)] ]

/-- R113. -/
def decideReportSpeed (p : Port) (args : List Word) (s : State) : State × Result × List Word :=
  if !portHolds s p .speedSource then (s, .noRight, speedData s)
  else
    match transmissionOfCode (argAt args 1) with
    | none => (s, .badArgument, speedData s)
    | some x =>
      if argAt args 2 ≤ 1 then
        let s1 := takeReport p (min 1500 (argAt args 0)) x (argAt args 2 == 1) s
        (s1, if 1500 < argAt args 0 then .clamped else .ok, speedData s1)
      else (s, .badArgument, speedData s)

/-- REPORT_SPEED (R113). -/
def execReportSpeed (w : When) (p : Port) (s : State) : Host.Outcome State Fault Refusal :=
  happen w (whenRunning (serve p .reportSpeed (decideReportSpeed p))) s

/-! ### SET_GOVERNOR -/

/-- R86, R146: the data of SET_GOVERNOR, in every answer. -/
def governorData (s : State) : List Word :=
  [wordOfNat (governingCode s.gov.governing), wordOfNat s.gov.sp, wordOfNat s.gov.sn]

/-- R86: a setpoint argument applied, 0 meaning keep. -/
def setpointAfter (lo hi arg old : Nat) : Nat := if arg = 0 then old else clampNat lo hi arg

/-- R86: a setpoint argument is clamped. -/
def setpointClamped (lo hi arg : Nat) : Bool := arg != 0 && !within lo hi arg

/-- R86: a mode argument applied; `none` is KEEP. -/
def setGoverning (x : Option GoverningMode) (u : GovUnit) : GovUnit :=
  match x with
  | none => u
  | some m => if m = u.governing then u else { u with governing := m, ePrev := 0 }

/-- R86. -/
def applyGovernor (x : Option GoverningMode) (sp sn : Nat) (s : State) : State :=
  { s with gov := setGoverning x { s.gov with
      sp := setpointAfter 200 2400 sp s.gov.sp, sn := setpointAfter 600 3000 sn s.gov.sn } }

/-- Section 11.1: KEEP 0, PRESSURE 1, SPEED 2; none for another code. -/
def governingArgument : Nat → Option (Option GoverningMode)
  | 0 => some none
  | 1 => some (some .pressure)
  | 2 => some (some .speed)
  | _ => none

/-- R85, R86. -/
def decideSetGovernor (p : Port) (args : List Word) (s : State) : State × Result × List Word :=
  if !portHolds s p .govern then (s, .noRight, governorData s)
  else
    match governingArgument (argAt args 0) with
    | none => (s, .badArgument, governorData s)
    | some x =>
      if x = some .pressure ∧ s.gov.faultMark then (s, .faulted, governorData s)
      else
        let s1 := applyGovernor x (argAt args 1) (argAt args 2) s
        (s1,
          if setpointClamped 200 2400 (argAt args 1) || setpointClamped 600 3000 (argAt args 2)
          then .clamped else .ok,
          governorData s1)

/-- SET_GOVERNOR (R85, R86). -/
def execSetGovernor (w : When) (p : Port) (s : State) : Host.Outcome State Fault Refusal :=
  happen w (whenRunning (serve p .setGovernor (decideSetGovernor p))) s

/-! ### SELECT_SUPPLY -/

/-- R101: the supply takes the value. -/
def changeSupply (x : Supply) (s : State) : State :=
  if x = s.tnk.supply then s
  else
    handOver (.supplyToGov x)
      (arrive .tnk .supply (some (supplyCode x))
        (suspendStall (commandTankValve { s with tnk := { s.tnk with supply := x } })))

/-- R101. -/
def decideSelectSupply (p : Port) (args : List Word) (s : State) : State × Result × List Word :=
  if !portHolds s p .tank then refuse .noRight s
  else
    match supplyOfCode (argAt args 0) with
    | none => refuse .badArgument s
    | some x => (changeSupply x s, .ok, [])

/-- SELECT_SUPPLY (R101). -/
def execSelectSupply (w : When) (p : Port) (s : State) : Host.Outcome State Fault Refusal :=
  happen w (whenRunning (serve p .selectSupply (decideSelectSupply p))) s

/-! ### FILL_START and FILL_STOP -/

/-- R104, R105, R108: the record of a fill that opens now. -/
def newFill (p : Port) (target : Nat) (s : State) : Fill :=
  let suspended := stallSuspended s.tnk.supply s.tnk.mode
  { requester := p, target := target, start := s.timeBase
    riseLevel := s.tnk.tank0.lf.getD 0, riseTime := s.timeBase
    timeout := startTimer s ((conf s).fillItems.timeoutMin * 60000)
    stall := if suspended then none else some (startTimer s ((conf s).fillItems.stallSec * 1000))
    suspended := suspended }

/-- R104: a fill opens. -/
def openFill (p : Port) (target : Nat) (s : State) : State :=
  arrive .tnk .fillActive (some 1)
    { s with tnk := { s.tnk with fill := some (newFill p target s), fillValve := true } }

/-- R103. -/
def decideFillStart (p : Port) (args : List Word) (s : State) : State × Result × List Word :=
  let full := (conf s).tank0.full
  let target := min (argAt args 0) full
  if !portHolds s p .tank then refuse .noRight s
  else if s.tnk.fill.isSome then refuse .busy s
  else if holdsBlock s.tnk.blocks .fill then refuse .blocked s
  else if s.tnk.mode ≠ .parked ∧ s.tnk.mode ≠ .pump then refuse .condition s
  else if s.tnk.tank0.state = .unknown ∨ s.tnk.tank0.state = .full then refuse .condition s
  else if (target : Int) ≤ s.tnk.tank0.v.getD 0 then refuse .condition s
  else
    (openFill p target s, if full < argAt args 0 then .clamped else .taken,
      [wordOfNat target, wordOfInt (s.tnk.tank0.v.getD 0)])

/-- FILL_START (R103). -/
def execFillStart (w : When) (p : Port) (s : State) : Host.Outcome State Fault Refusal :=
  happen w (whenRunning (serve p .fillStart (decideFillStart p))) s

/-- R110. -/
def decideFillStop (p : Port) (_ : List Word) (s : State) : State × Result × List Word :=
  if !portHolds s p .tank then refuse .noRight s
  else (endFill .stopped (portCode p) s, .ok, [])

/-- FILL_STOP (R110). -/
def execFillStop (w : When) (p : Port) (s : State) : Host.Outcome State Fault Refusal :=
  happen w (whenRunning (serve p .fillStop (decideFillStop p))) s

/-! ### ACK_ROW -/

/-- R62. -/
def decideAckRow (p : Port) (args : List Word) (s : State) : State × Result × List Word :=
  if !portHolds s p .ack then refuse .noRight s
  else if 24 ≤ argAt args 0 then refuse .badArgument s
  else
    match (rowSlot s (argAt args 0)).state with
    | .latched => (handleRows (.place (argAt args 0)) s, .ok, [])
    | .active => refuse .condition s
    | .off | .wait | .clear | .holding => (s, .ok, [])

/-- ACK_ROW (R62). -/
def execAckRow (w : When) (p : Port) (s : State) : Host.Outcome State Fault Refusal :=
  happen w (whenRunning (serve p .ackRow (decideAckRow p))) s

/-! ### WRITE_ROW -/

/-- R65: row `i`'s record is replaced and the row placed. -/
def rewriteRow (i : Nat) (r : RowRecord) (s : State) : State :=
  handleRows (.place i)
    { s with cfg := { s.cfg with
        working := s.cfg.working.map (fun c => { c with rows := replaceAt c.rows (i - 12) r }) } }

/-- R66: the lock is held by a port other than `p`. -/
def lockedAgainst (p : Port) (s : State) : Bool :=
  match s.lkt.lock with
  | none => false
  | some q => q != p

/-- R63, checks 1 to 3: the valid record of a WRITE_ROW. -/
def rowOfArguments (args : List Word) : Option RowRecord :=
  match rowOfWords (args.drop 1) with
  | none => none
  | some r => if rowValid (argAt args 0) r then some r else none

/-- R63. -/
def decideWriteRow (p : Port) (args : List Word) (s : State) : State × Result × List Word :=
  if !portHolds s p .lockoutEdit then refuse .noRight s
  else if !within 12 23 (argAt args 0) then refuse .badArgument s
  else
    match rowOfArguments args with
    | none => refuse .badArgument s
    | some r =>
      if s.cfg.storeBusy then refuse .busy s
      else if lockedAgainst p s then refuse .locked s
      else if !standing s.seq.mode then refuse .condition s
      else (rewriteRow (argAt args 0) r s, .ok, [])

/-- WRITE_ROW (R63). -/
def execWriteRow (w : When) (p : Port) (s : State) : Host.Outcome State Fault Refusal :=
  happen w (whenRunning (serve p .writeRow (decideWriteRow p))) s

/-! ### LOCK_TABLE -/

/-- Section 11.1: the LOCK_TABLE arguments. -/
def lockClear : Nat := 0
def lockSet : Nat := 1

/-- R66, R146: the lock takes its new holder and the answer names it. -/
def setLock (x : Option Port) (s : State) : State × Result × List Word :=
  ({ s with lkt := { s.lkt with lock := x } }, .ok, [wordOfNat (holderCode x)])

/-- R66: the checks of a LOCK_TABLE of argument `own`, and the lock it leaves. -/
def decideLock (p : Port) (own : Nat) (holder : Option Port) (args : List Word) (s : State) :
    State × Result × List Word :=
  if !portHolds s p .config then refuse .noRight s
  else if argAt args 0 ≠ own then refuse .badArgument s
  else if lockedAgainst p s then (s, .locked, [wordOfNat (holderCode s.lkt.lock)])
  else setLock holder s

/-- A LOCK_TABLE is a step of the row whose argument it carries; one whose argument is neither is
answered alike whichever row takes it (log entry 14). -/
def serveLock (p : Port) (own : Nat) (holder : Option Port) (s : State) : State :=
  match askedOf s p .lockTable with
  | none => s
  | some args =>
    if argAt args 0 = own ∨ lockSet < argAt args 0 then
      serve p .lockTable (decideLock p own holder) s
    else s

/-- LOCK_TABLE SET (R66). -/
def execLockTableSet (w : When) (p : Port) (s : State) : Host.Outcome State Fault Refusal :=
  happen w (whenRunning (serveLock p lockSet (some p))) s

/-- LOCK_TABLE CLEAR (R66). -/
def execLockTableClear (w : When) (p : Port) (s : State) : Host.Outcome State Fault Refusal :=
  happen w (whenRunning (serveLock p lockClear none)) s

end Sys2Proof.Machine
end

