-- ==== Sys2Proof/Machine/Resets.lean ====
section
/-! DEFINITION. Resets and the start-up load (R162, R163), the start-up wait (R5). -/

namespace Sys2Proof.Machine

/-- R161, R163: a reset leaves the image as it stands, partly written if a store was in progress. -/
def imageAtReset (u : CfgUnit) : Image :=
  if u.storeBusy then { u.image with whole := false } else u.image

/-- The levels of the select lines. -/
def selectsOf (s : State) : PerPort Bool :=
  ⟨s.links.chassis.selectLow, s.links.cab.selectLow, s.links.panel.selectLow⟩

/-- R163: every record takes its reset value; the commands waiting are the world's and stay. -/
def resetTo (phase : Phase) (cause : ResetCause) (s : State) : State :=
  { freshState phase cause (imageAtReset s.cfg) (selectsOf s) with pending := s.pending }

/-- SUPPLY_START (R163).  With the RESET line held low it gives one reset, whose cause is
RESET_LINE and whose load begins at the release. -/
def execSupplyStart (w : When) (s : State) : Host.Outcome State Fault Refusal :=
  happen w (fun s =>
    if s.phase = .held then resetTo .held .resetLine s else resetTo .loading .supplyStart s) s

/-- RESET_LINE (R163). -/
def execResetLine (w : When) (s : State) : Host.Outcome State Fault Refusal :=
  happen w (resetTo .held .resetLine) s

/-- RESET_LINE_RELEASE (R163): the time base starts and the start-up load begins. -/
def execResetLineRelease (w : When) (s : State) : Host.Outcome State Fault Refusal :=
  happen w (fun s => if s.phase = .held then { s with phase := .loading } else s) s

/-! ### The start-up load -/

/-- R160, R161: the image checks good. -/
def imageGood (x : Image) : Bool := x.whole && wordSum x.words == x.checksum

/-- R162: the working configuration that the load gives. -/
def loadedConfig (x : Image) : WorkingConfig :=
  if imageGood x then configOfImage x.words else factory

/-- R162, R154: CFG ends the load. -/
def loadConfig (s : State) : State :=
  let s1 := { s with phase := .running, cfg := { s.cfg with
      working := some (loadedConfig s.cfg.image), configInvalid := !imageGood s.cfg.image } }
  if imageGood s.cfg.image then s1 else addCauseAll .configDefaulted s1

/-- R70, R101: the fields that take their values from the configuration at the end of the load. -/
def loadRecords (s : State) : State :=
  let c := conf s
  { s with
    gov := { s.gov with
      sp := c.govDefaults.pressure, sn := c.govDefaults.speed, cIntake := c.gains.ceiling
      c := c.gains.ceiling, supply := c.fillItems.supplyDefault }
    tnk := { s.tnk with supply := c.fillItems.supplyDefault }
    lkt := { s.lkt with sources := resetSources c.fillItems.supplyDefault s.cfg.configInvalid } }

/-- R122, R124, R5: the first sample, the settle interval and the start-up wait. -/
def startInputs (lines : Levels) (s : State) : State :=
  let wait := startTimer s (conf s).timing.debounce
  { s with
    lio := { s.lio with inputs := firstSample lines, settle := some wait, published := false }
    seq := { s.seq with startWait := some wait } }

/-- START_UP_LOAD_END (R162): the end of the load starts the rest of the part. -/
def execStartUpLoadEnd (w : When) (lines : Levels) (s : State) :
    Host.Outcome State Fault Refusal :=
  happen w (fun s =>
    if s.phase = .loading then
      placeTable (startScan (startPwm (startGate (startInputs lines (loadRecords (loadConfig s))))))
    else s) s

/-! ### The start-up wait and the settle interval -/

/-- R5: SEQ leaves INIT. -/
def leaveInit (s : State) : State :=
  if feedback s then addCauseAll .ptoFoundEngaged (transition .stuck none .start s)
  else transition (derivedMode s) none .start s

/-- START_UP_WAIT_EXPIRY (R5). -/
def execStartUpWaitExpiry (w : When) (s : State) : Host.Outcome State Fault Refusal :=
  happen w (whenRunning (fun s =>
    if s.seq.mode = .init ∧ timerDue s.timeBase s.seq.startWait then leaveInit s else s)) s

/-- SETTLE_INTERVAL_EXPIRY (R124): the first publication of the input word. -/
def execSettleIntervalExpiry (w : When) (s : State) : Host.Outcome State Fault Refusal :=
  happen w (whenRunning (fun s =>
    if timerDue s.timeBase s.lio.settle then
      publishWord { s with lio := { s.lio with settle := none, published := true } }
    else s)) s

end Sys2Proof.Machine
end

