-- ==== Sys2Proof/Machine/Timers.lean ====
section
/-! DEFINITION. Expiries of the timers of SEQ, LKT, TNK and SPD.  An expiry that belongs to no running timer
has no effect (R8, R50, R105, R114). -/

namespace Sys2Proof.Machine

/-- SHIFT_TIMER_EXPIRY (R12). -/
def execShiftTimerExpiry (w : When) (s : State) : Host.Outcome State Fault Refusal :=
  happen w (whenRunning (fun s =>
    if s.seq.mode = .shiftingIn ∧ timerDue s.timeBase s.seq.shiftTimer then
      expireShift s
    else s)) s

/-- SPIN_DOWN_LIMIT_EXPIRY (R18). -/
def execSpinDownLimitExpiry (w : When) (s : State) : Host.Outcome State Fault Refusal :=
  happen w (whenRunning (fun s =>
    if s.seq.mode = .disengaging ∧ s.seq.sub = some .spinDown ∧
        timerDue s.timeBase s.seq.spinLimit then
      enterRelease .timeout s
    else s)) s

/-- R22: the release has failed. -/
def failRelease (s : State) : State := closeRequest .failed (transition .stuck none .timeout s)

/-- RELEASE_TIMER_EXPIRY (R22).  An expiry that SEQ takes before the clearing that reaches it together
with the expiry finds the feedback still set. -/
def execReleaseTimerExpiry (w : When) (s : State) : Host.Outcome State Fault Refusal :=
  happen w (whenRunning (fun s =>
    if s.seq.mode = .disengaging ∧ s.seq.sub = some .release ∧ feedbackStillSet s ∧
        timerDue s.timeBase s.seq.releaseTimer then
      failRelease s
    else s)) s

/-- HOLD_TIMER_EXPIRY (R50). -/
def execHoldTimerExpiry (w : When) (row : Nat) (s : State) : Host.Outcome State Fault Refusal :=
  happen w (whenRunning (fun s =>
    if (rowSlot s row).state = .holding ∧ timerDue s.timeBase (rowSlot s row).timer then
      handleRows (.expiry row) s
    else s)) s

/-- FILL_TIMEOUT_EXPIRY (R105). -/
def execFillTimeoutExpiry (w : When) (s : State) : Host.Outcome State Fault Refusal :=
  happen w (whenRunning (fun s =>
    if timerDue s.timeBase (s.tnk.fill.map Fill.timeout) then endFill .timedOut 0 s else s)) s

/-- STALL_WINDOW_EXPIRY (R105, R107). -/
def execStallWindowExpiry (w : When) (s : State) : Host.Outcome State Fault Refusal :=
  happen w (whenRunning (fun s =>
    if timerDue s.timeBase (s.tnk.fill.bind Fill.stall) then endFill .stalled 0 s else s)) s

/-- STALE_TIMER_EXPIRY (R114). -/
def execStaleTimerExpiry (w : When) (s : State) : Host.Outcome State Fault Refusal :=
  happen w (whenRunning (fun s =>
    if timerDue s.timeBase s.spd.staleTimer then becomeStale s else s)) s

/-- R119: the difference has lasted. -/
def becomeDisagree (s : State) : State :=
  recomputeSpeed false { s.spd with disagreement := .disagree, disTimer := none } s

/-- DISAGREEMENT_TIMER_EXPIRY (R119). -/
def execDisagreementTimerExpiry (w : When) (s : State) : Host.Outcome State Fault Refusal :=
  happen w (whenRunning (fun s =>
    if s.spd.disagreement = .differing ∧ timerDue s.timeBase s.spd.disTimer then becomeDisagree s
    else s)) s

end Sys2Proof.Machine
end

