-- ==== Sys2Proof/WellFormed.lean ====
section
/-! DEFINITION. Which commands are well formed: an operand names something the part has. -/

namespace Sys2Proof

/-- The number of words in the image less its checksum (R160): 27 parts of seven words and twelve
rows of six. -/
abbrev imageLength : Nat := 261

/-- A command's operands name what exists: a row index is 0..23 (R40), a flaw of the stored image
lies in the image or is its checksum (R160). -/
def wellFormed : Instr → Bool
  | .holdTimerExpiry _ row => decide (row < 24)
  | .storeEnd _ flaws => flaws.all (fun f => decide (f.1 ≤ imageLength))
  | _ => true

end Sys2Proof
end

