-- ==== Sys2Proof/Machine/Writes.lean ====
section
/-! DEFINITION. CFG: WRITE_CONFIG, STORE_CONFIG and the end of a store (chapter 10). -/

namespace Sys2Proof.Machine

/-! ### Tuning items: clamped (R157) -/

/-- R88. -/
def clampGains (g : Gains) : Gains :=
  ⟨clampNat 0 255 g.kpPressure, clampNat 0 255 g.kiPressure, clampNat 0 255 g.kpSpeed,
    clampNat 0 255 g.kiSpeed, clampNat 1 100 g.slew, clampNat 100 1000 g.ceiling⟩

/-- R88. -/
def clampGovDefaults (g : GovDefaults) : GovDefaults :=
  ⟨clampNat 200 2400 g.pressure, clampNat 600 3000 g.speed, clampInt (-60) 200 g.floor,
    clampNat 5 100 g.hysteresis⟩

/-- R60. -/
def clampFixedRows (f : FixedRowItems) : FixedRowItems :=
  ⟨clampNat 10 150 f.rollLimit, clampNat 1000 3500 f.pMax, clampNat 0 60000 f.hold2,
    clampNat 0 60000 f.hold3, clampNat 0 60000 f.hold6, clampNat 0 60000 f.hold9,
    clampNat 0 60000 f.hold10⟩

/-- R99, R157: each threshold against those already taken and the working values after it. -/
def clampThresholds (working t : TankThresholds) : TankThresholds :=
  let empty := clampNat 0 (working.low - 1) t.empty
  let low := clampNat (empty + 1) (working.full - 1) t.low
  let full := clampNat (low + 1) 65535 t.full
  ⟨empty, low, full, clampNat 0 1000 t.hv⟩

/-- R119, R92. -/
def clampTolerances (t : Tolerances) : Tolerances := ⟨clampNat 10 100 t.speed, clampNat 10 200 t.gauge⟩

/-- The configuration that a write of a tuning part gives, and whether any value was clamped. -/
def tunedBy (c : WorkingConfig) (item part : Nat) (ws : List Word) : WorkingConfig × Bool :=
  match item with
  | 1 => ({ c with gains := clampGains (gainsOfWords ws) },
      clampGains (gainsOfWords ws) != gainsOfWords ws)
  | 2 => ({ c with govDefaults := clampGovDefaults (govDefaultsOfWords ws) },
      clampGovDefaults (govDefaultsOfWords ws) != govDefaultsOfWords ws)
  | 3 => ({ c with fixedRows := clampFixedRows (fixedRowItemsOfWords ws) },
      clampFixedRows (fixedRowItemsOfWords ws) != fixedRowItemsOfWords ws)
  | 4 =>
    if part = 0 then
      ({ c with tank0 := clampThresholds c.tank0 (thresholdsOfWords ws) },
        clampThresholds c.tank0 (thresholdsOfWords ws) != thresholdsOfWords ws)
    else
      ({ c with tank1 := clampThresholds c.tank1 (thresholdsOfWords ws) },
        clampThresholds c.tank1 (thresholdsOfWords ws) != thresholdsOfWords ws)
  | 5 => ({ c with tolerances := clampTolerances (tolerancesOfWords ws) },
      clampTolerances (tolerancesOfWords ws) != tolerancesOfWords ws)
  | _ => (c, false)

/-! ### Structural items of a single write: refused when out of range or inconsistent (R157) -/

/-- The configuration that a write of a structural part gives, none when check 3 fails. -/
def structuredBy (c : WorkingConfig) (item part : Nat) (ws : List Word) : Option WorkingConfig :=
  match item with
  | 6 => if timingValid (timingOfWords ws) then some { c with timing := timingOfWords ws } else none
  | 7 => if ratesValid (ratesOfWords ws) then some { c with rates := ratesOfWords ws } else none
  | 8 =>
    match fillItemsOfWords ws with
    | none => none
    | some f => if fillItemsValid f then some { c with fillItems := f } else none
  | 10 =>
    if calibrationValid (calibrationOfWords ws) then
      some { c with calibration := replaceAt c.calibration part (calibrationOfWords ws) }
    else none
  | 13 =>
    if oneSpeedSource (rightsOfWords ws) && ranksValid (ranksOfWords ws) then
      some { c with rights := rightsOfWords ws, ranks := ranksOfWords ws }
    else none
  | 14 => some { c with subscriptions := subscriptionsOfWords ws }
  | _ => none

/-! ### Handing on a changed item (R157) -/

/-- The port that holds SPEED_SOURCE, by its code. -/
def speedSourceOf (r : PerPort RightSet) : Nat :=
  if holdsRight r.chassis .speedSource then 0
  else if holdsRight r.cab .speedSource then 1
  else 2

/-- R67: a lock whose holder has lost CONFIG is freed. -/
def freeLostLock (s : State) : State :=
  match s.lkt.lock with
  | none => s
  | some q => if portHolds s q .config then s else { s with lkt := { s.lkt with lock := none } }

/-- R157: the configuration is replaced and the owners that act at the write do so: C_cfg (R79),
tank 0's FULL (R99), I and SPEED_SOURCE (R116), CONFIG (R67). -/
def applyWrite (c : WorkingConfig) (s : State) : State :=
  let old := conf s
  let s1 := { s with cfg := { s.cfg with working := some c } }
  let s2 := if c.gains.ceiling = old.gains.ceiling then s1 else govTakesCeiling s1
  let s3 := if c.tank0.full = old.tank0.full then s2 else tnkTakesFull s2
  let s4 := if c.rates.reportInterval = old.rates.reportInterval then s3 else spdTakesInterval s3
  let s5 := if speedSourceOf c.rights = speedSourceOf old.rights then s4 else spdTakesMove s4
  if c.rights = old.rights then s5 else freeLostLock s5

/-- R157: a write that passes the checks; one that changes no value hands nothing on. -/
def writeThrough (c : WorkingConfig) (s : State) : State := if c = conf s then s else applyWrite c s

/-- R157, R88, R92, R99: the answer to a tuning write: CLAMPED if any value was clamped, be the value
it was clamped to the one held (DEDUCED, log entry 5). -/
def tuningResult (clamped : Bool) : Result := if clamped then .clamped else .ok

/-! ### Multi-part items (R158) -/

/-- R158: the sender's staging record discarded. -/
def dropStaging (p : Port) (s : State) : State :=
  { s with cfg := { s.cfg with staging := portSet s.cfg.staging p none } }

/-- R158: the values received so far, kept with the part that is expected next. -/
def keepStaging (p : Port) (x : Staging) (s : State) : State :=
  { s with cfg := { s.cfg with staging := portSet s.cfg.staging p (some x) } }

/-- The parts that the sender's staging record holds for this item. -/
def stagedParts (p : Port) (item : Nat) (s : State) : List (List Word) :=
  match portGet s.cfg.staging p with
  | none => []
  | some x => if x.item = item then x.words else []

/-- R157, R158: a scan entry within the length is a channel number; `length` entries are left. -/
def entriesValid (length : Nat) (entries : List Word) : Bool :=
  (entries.take length).all (fun e => decide (e.toNat ≤ 7))

/-- R157, R158: the single values of a part lie in their ranges. -/
def partInRange (staged : List (List Word)) (item part : Nat) (ws : List Word) : Bool :=
  if item = 9 then
    if part = 0 then within 1 12 (valueAt ws 0) && entriesValid (min 6 (valueAt ws 0)) (ws.drop 1)
    else entriesValid (min 6 (valueAt (staged.getD 0 []) 0 - 6)) ws
  else (pointsOfWords ws).all (fun q => decide (q.level ≤ 2000))

/-- R158: the configuration that a completed item gives, none when a whole-item check fails. -/
def completedBy (c : WorkingConfig) (item : Nat) (parts : List (List Word)) :
    Option WorkingConfig :=
  if item = 9 then
    let l := scanListOfWords (parts.getD 0 []) (parts.getD 1 [])
    if scanListValid l then some { c with scanList := l } else none
  else
    let table := parts.flatMap pointsOfWords
    if strapValid table then
      some (if item = 11 then { c with strap0 := table } else { c with strap1 := table })
    else none

/-- R158: the sender's staging record names this item and expects this part. -/
def expectsPart (p : Port) (item part : Nat) (s : State) : Bool :=
  match portGet s.cfg.staging p with
  | none => false
  | some x => x.item == item && x.next == part

/-- R157, check 3: the part completes an item that fails a whole-item check of R158. -/
def completesWrongly (p : Port) (item part : Nat) (ws : List Word) (s : State) : Bool :=
  expectsPart p item part s && part + 1 == partCount item &&
    (completedBy (conf s) item (stagedParts p item s ++ [ws])).isNone

/-- R158: a part that has passed checks 1 to 5; of a part not expected the checks of R157 say nothing,
and it is refused here. -/
def stagePart (p : Port) (item part : Nat) (ws : List Word) (s : State) :
    State × Result × List Word :=
  if part = 0 then (keepStaging p ⟨item, 1, [ws]⟩ s, .ok, [])
  else if expectsPart p item part s then
    let parts := stagedParts p item s ++ [ws]
    if part + 1 < partCount item then (keepStaging p ⟨item, part + 1, parts⟩ s, .ok, [])
    else
      match completedBy (conf s) item parts with
      | none => refuse .badArgument (dropStaging p s)
      | some c => (writeThrough c (dropStaging p s), .ok, [])
  else refuse .badArgument (dropStaging p s)

/-! ### WRITE_CONFIG -/

/-- R158: a part refused with this result discards the sender's staging record; whether one refused
NO_RIGHT does is a free value, since R145 says that it changes no state (log entry 38). -/
def discardsStaging (r : Result) : Bool :=
  r != .noRight || Config.discardsWithoutRight

/-- The answer that a failing check gives; a part of a multi-part item refused also discards the
sender's staging record (R158). -/
def refuseWrite (p : Port) (item : Nat) (r : Result) (s : State) : State × Result × List Word :=
  refuse r (if multiPartItem item && discardsStaging r then dropStaging p s else s)

/-- R157, checks 4 and 5: BUSY during a store; CONDITION outside ROAD and PARKED. -/
def structuralGate (s : State) : Option Result :=
  if s.cfg.storeBusy then some .busy
  else if !standing s.seq.mode then some .condition
  else none

/-- R157.  Check 3 is made before BUSY and CONDITION: the single values of a part on that part, and the
whole-item checks on the part that completes the item (R158; log entry 23). -/
def decideWriteConfig (p : Port) (args : List Word) (s : State) : State × Result × List Word :=
  let item := argAt args 0
  let part := argAt args 1
  let ws := args.drop 2
  if !portHolds s p .config then refuseWrite p item .noRight s
  else if partCount item ≤ part then refuseWrite p item .badArgument s
  else if !structuralItem item then
    if s.cfg.storeBusy then refuse .busy s
    else
      let tuned := tunedBy (conf s) item part ws
      (writeThrough tuned.1 s, tuningResult tuned.2, [])
  else if multiPartItem item then
    if !partInRange (stagedParts p item s) item part ws || completesWrongly p item part ws s then
      refuseWrite p item .badArgument s
    else
      match structuralGate s with
      | some r => refuseWrite p item r s
      | none => stagePart p item part ws s
  else
    match structuredBy (conf s) item part ws with
    | none => refuse .badArgument s
    | some c =>
      match structuralGate s with
      | some r => refuse r s
      | none => (writeThrough c s, .ok, [])

/-- WRITE_CONFIG (R157). -/
def execWriteConfig (w : When) (p : Port) (s : State) : Host.Outcome State Fault Refusal :=
  happen w (whenRunning (serve p .writeConfig (decideWriteConfig p))) s

/-! ### STORE_CONFIG and its end -/

/-- R160: the image of a working configuration. -/
def imageOf (c : WorkingConfig) : Image :=
  { words := imageWords c, checksum := wordSum (imageWords c), whole := true }

/-- R160: a store begins. -/
def beginStore (s : State) : State :=
  { s with cfg := { s.cfg with image := imageOf (conf s), storeBusy := true } }

/-- R160. -/
def decideStoreConfig (p : Port) (_ : List Word) (s : State) : State × Result × List Word :=
  if !portHolds s p .config then refuse .noRight s
  else
    match structuralGate s with
    | some r => refuse r s
    | none => (beginStore s, .taken, [])

/-- STORE_CONFIG (R160). -/
def execStoreConfig (w : When) (p : Port) (s : State) : Host.Outcome State Fault Refusal :=
  happen w (whenRunning (serve p .storeConfig (decideStoreConfig p))) s

/-- A word of the image that the memory did not hold as written; place 261 is the checksum's. -/
def flawImage (x : Image) (flaw : Nat × Word) : Image :=
  if flaw.1 = imageLength then { x with checksum := flaw.2 }
  else { x with words := replaceAt x.words flaw.1 flaw.2 }

/-- R161: CFG reads the image back, checks it and ends the store. -/
def finishStore (flaws : List (Nat × Word)) (s : State) : State :=
  let image := flaws.foldl flawImage s.cfg.image
  let invalid := !imageGood image
  let s1 := { s with cfg := { s.cfg with
      image := image, storeBusy := false, configInvalid := invalid } }
  let s2 := if invalid = s.cfg.configInvalid then s1
    else arrive .cfg .configInvalid (some (bit invalid)) s1
  post .cfg .configStored (bit invalid) s.cfg.image.checksum .subscribers s2

/-- STORE_END (R161). -/
def execStoreEnd (w : When) (flaws : List (Nat × Word)) (s : State) :
    Host.Outcome State Fault Refusal :=
  happen w (whenRunning (fun s => if s.cfg.storeBusy then finishStore flaws s else s)) s

end Sys2Proof.Machine
end

