-- ==== Sys2Proof/Machine/Dispatch.lean ====
section
/-! DEFINITION. The meaning of each command: one arm per constructor of Instr. -/

namespace Sys2Proof.Machine

def exec (i : Instr) (s : State) : Host.Outcome State Fault Refusal :=
  match i with
  | .supplyStart w => Sys2Proof.Machine.execSupplyStart w s
  | .resetLine w => Sys2Proof.Machine.execResetLine w s
  | .resetLineRelease w => Sys2Proof.Machine.execResetLineRelease w s
  | .startUpLoadEnd w lines => Sys2Proof.Machine.execStartUpLoadEnd w lines s
  | .startUpWaitExpiry w => Sys2Proof.Machine.execStartUpWaitExpiry w s
  | .settleIntervalExpiry w => Sys2Proof.Machine.execSettleIntervalExpiry w s
  | .stabilityTimerExpiry w x => Sys2Proof.Machine.execStabilityTimerExpiry w x s
  | .tachEdge w => Sys2Proof.Machine.execTachEdge w s
  | .silenceTimerExpiry w => Sys2Proof.Machine.execSilenceTimerExpiry w s
  | .roadPulseEdge w => Sys2Proof.Machine.execRoadPulseEdge w s
  | .gateEnd w => Sys2Proof.Machine.execGateEnd w s
  | .scanPeriodExpiry w => Sys2Proof.Machine.execScanPeriodExpiry w s
  | .conversionCompletion w code => Sys2Proof.Machine.execConversionCompletion w code s
  | .throttlePwmPeriodStart w => Sys2Proof.Machine.execThrottlePwmPeriodStart w s
  | .selectFall w p => Sys2Proof.Machine.execSelectFall w p s
  | .selectRise w p part => Sys2Proof.Machine.execSelectRise w p part s
  | .answerCompletion w p => Sys2Proof.Machine.execAnswerCompletion w p s
  | .readStatus w p => Sys2Proof.Machine.execReadStatus w p s
  | .readRow w p => Sys2Proof.Machine.execReadRow w p s
  | .readNotice w p => Sys2Proof.Machine.execReadNotice w p s
  | .readResetCause w p => Sys2Proof.Machine.execReadResetCause w p s
  | .readConfig w p => Sys2Proof.Machine.execReadConfig w p s
  | .reportSpeed w p => Sys2Proof.Machine.execReportSpeed w p s
  | .engage w p => Sys2Proof.Machine.execEngage w p s
  | .roll w p => Sys2Proof.Machine.execRoll w p s
  | .stopRoll w p => Sys2Proof.Machine.execStopRoll w p s
  | .disengage w p => Sys2Proof.Machine.execDisengage w p s
  | .setGovernor w p => Sys2Proof.Machine.execSetGovernor w p s
  | .selectSupply w p => Sys2Proof.Machine.execSelectSupply w p s
  | .fillStart w p => Sys2Proof.Machine.execFillStart w p s
  | .fillStop w p => Sys2Proof.Machine.execFillStop w p s
  | .ackRow w p => Sys2Proof.Machine.execAckRow w p s
  | .writeRow w p => Sys2Proof.Machine.execWriteRow w p s
  | .lockTableSet w p => Sys2Proof.Machine.execLockTableSet w p s
  | .lockTableClear w p => Sys2Proof.Machine.execLockTableClear w p s
  | .writeConfig w p => Sys2Proof.Machine.execWriteConfig w p s
  | .storeConfig w p => Sys2Proof.Machine.execStoreConfig w p s
  | .storeEnd w flaws => Sys2Proof.Machine.execStoreEnd w flaws s
  | .postNote w p => Sys2Proof.Machine.execPostNote w p s
  | .shiftTimerExpiry w => Sys2Proof.Machine.execShiftTimerExpiry w s
  | .spinDownLimitExpiry w => Sys2Proof.Machine.execSpinDownLimitExpiry w s
  | .releaseTimerExpiry w => Sys2Proof.Machine.execReleaseTimerExpiry w s
  | .holdTimerExpiry w row => Sys2Proof.Machine.execHoldTimerExpiry w row s
  | .fillTimeoutExpiry w => Sys2Proof.Machine.execFillTimeoutExpiry w s
  | .stallWindowExpiry w => Sys2Proof.Machine.execStallWindowExpiry w s
  | .staleTimerExpiry w => Sys2Proof.Machine.execStaleTimerExpiry w s
  | .disagreementTimerExpiry w => Sys2Proof.Machine.execDisagreementTimerExpiry w s
  | .inputSample w lines => Sys2Proof.Machine.execInputSample w lines s
  | .wordCompletion w p word => Sys2Proof.Machine.execWordCompletion w p word s

end Sys2Proof.Machine
end

