-- ==== Sys2Proof/Safety.lean ====
section
/-! DEFINITION. What a sound state of the part is, unit by unit, and the words in which the statements speak. -/

namespace Sys2Proof.Machine

/-! ### What no hand-over changes -/

/-- What a command itself may change and no hand-over between units does: time, SPD, CNV, CFG, the
links, the reset causes, the commands waiting, and LIO but for the THROTTLE line, which GOV
commands. -/
structure Still where
  phase : Phase
  timeBase : Count32
  usPhase : Nat
  usCount : Count32
  spd : SpdUnit
  cnv : CnvUnit
  inputs : Inputs
  settle : Option Timer
  published : Bool
  np : Nat
  prevEdge : Option Count32
  silence : Option Timer
  gate : Option Timer
  gateCount : Nat
  periodStart : Option Count32
  cfg : CfgUnit
  links : PerPort Link
  causes : PerPort CauseSet
  pending : List Instr
  deriving DecidableEq, Repr

/-- The still part of a state. -/
def still (s : State) : Still :=
  { phase := s.phase, timeBase := s.timeBase, usPhase := s.usPhase, usCount := s.usCount
    spd := s.spd, cnv := s.cnv, inputs := s.lio.inputs, settle := s.lio.settle
    published := s.lio.published, np := s.lio.np, prevEdge := s.lio.prevEdge
    silence := s.lio.silence, gate := s.lio.gate, gateCount := s.lio.gateCount
    periodStart := s.lio.throttle.periodStart, cfg := s.cfg, links := s.links
    causes := ⟨s.ntq.chassis.causes, s.ntq.cab.causes, s.ntq.panel.causes⟩, pending := s.pending }

/-- The links after port `p`'s request has been given its answer. -/
def answered (s : State) (p : Port) (a : Answer) : PerPort Link :=
  portSet s.links p { portGet s.links p with preparation := some (.answered a) }

/-! ### What a command hands on -/

/-- A notice that a unit posts in state `s`, stamped with the moment (R149). -/
def notice (s : State) (sender : UnitName) (kind : NoticeKind) (subject : Nat) (value : Word)
    (dest : Addressee) : Handover :=
  .notice sender ⟨kind, BitVec.ofNat 8 subject, value, s.timeBase.setWidth 16⟩ dest

/-- R2: MODE_CHANGED from `m0` and `sub0` to `m` and `sub`. -/
def modeNotice (s : State) (why : Reason) (m : Mode) (sub : Option SubStage) (m0 : Mode)
    (sub0 : Option SubStage) : Handover :=
  notice s .seq .modeChanged (reasonCode why)
    (wordOfNat (256 * (modeCode m + 8 * subStageCode sub) + (modeCode m0 + 8 * subStageCode sub0)))
    .subscribers

/-- R37: REQUEST_OUTCOME to the holder of an open request, none where none is open; `by_` is the code
of the port that displaced it, 0 where none did. -/
def outcomeNotices (s : State) (r : Option OpenRequest) (e : Ending) (by_ : Nat) : List Handover :=
  match r with
  | none => []
  | some r =>
    [notice s .seq .requestOutcome (operationCode r.kind) (wordOfNat (256 * by_ + endingCode e))
      (.only r.requester)]

/-- A change of the mode as SEQ hands it on (R48, R73, R102). -/
def modeHandovers (m : Mode) : List Handover := [.modeToLkt m, .modeToGov m, .modeToTnk m]

/-- R120, R121: what SPD hands on when an event at moment `s` has made its record `after` of `before`;
`check` holds for a report and a gate end. -/
def speedHandovers (s : State) (check : Bool) (before after : SpdUnit) : List Handover :=
  let quality' := quality after != quality before
  let value' := after.value != before.value
  let transmission' := after.transmission != before.transmission
  let reason := if quality after = .good then 2 else if after.freshness = .stale then 0 else 1
  (if check || value' || quality' then [.arrival .spd .roadSpeed (some after.value)] else []) ++
  (if quality' then [.arrival .spd .speedQuality (some (qualityCode (quality after)))] else []) ++
  (if quality' || transmission' then
    [.arrival .spd .transmission (some (transmissionCode after.transmission))] else []) ++
  (if quality' || value' then [.speedToSeq] else []) ++
  (if quality' then
    [notice s .spd .speedQuality reason (wordOfNat after.value) .subscribers] else [])

/-- R132 to R134, by the table of section 7.4: what CNV hands on when `code` has made the record of
`channel` `after` of `before`: the SENSOR notice of a change of the fault state, then the value with
its mark to each consumer of the channel. -/
def conversionHandovers (s : State) (channel code : Nat) (before after : Channel) : List Handover :=
  (if before.faulted = false ∧ after.faulted = true then
    [notice s .cnv .sensor (16 + channel) (wordOfNat code) .subscribers]
  else if before.faulted = true ∧ after.faulted = false then
    [notice s .cnv .sensor (32 + channel) (wordOfInt after.value) .subscribers]
  else []) ++
  if channel = 0 then
    [.dischargeToGov after.value after.faulted, .arrival .cnv .discharge (some after.value)]
  else if channel = 1 then
    [.intakeToGov after.value after.faulted, .arrival .cnv .intake (some after.value)]
  else if channel = 6 then [.arrival .cnv .aux0 (some after.value)]
  else if channel = 7 then [.arrival .cnv .aux1 (some after.value)]
  else [.levelToTnk channel after.value after.faulted]

/-- R109: what TNK hands on when the fill `f` ends; `stopper` is the stopping port's code for STOPPED
and 0 otherwise. -/
def endingHandovers (s : State) (f : Fill) (why : FillEnding) (stopper : Nat) : List Handover :=
  [notice s .tnk .fillEnded (fillEndingCode why + 16 * stopper) (wordOfInt (s.tnk.tank0.v.getD 0))
      (.subscribersAnd f.requester),
    .arrival .tnk .fillActive (some 0)]

/-- R100, points 2 and 3: what TNK hands on when tank `number` goes from the record `old` to `new` at a
recomputation: the volume, and the state and TANK_STATE if it changed. -/
def tankHandovers (s : State) (number : Nat) (volume state : Source) (old new : Tank) :
    List Handover :=
  (if new.l = none ∧ old.state = .unknown then [] else [.arrival .tnk volume new.v]) ++
    if new.state = old.state then []
    else [.arrival .tnk state (some (tankStateCode new.state)),
      notice s .tnk .tankState number
        (wordOfNat (256 * tankStateCode new.state + tankStateCode old.state)) .subscribers]

/-- R92, R100, points 1 to 3: what TNK hands on at a recomputation of tank 0 from `s` to `t`, before the
ending checks of a fill: SENSOR DISAGREE if the gauge disagreement episode opens, and the tank's own. -/
def tank0Handovers (s t : State) : List Handover :=
  (if s.tnk.episode = false ∧ t.tnk.episode = true then
    [notice s .tnk .sensor 3
      (wordOfInt (t.tnk.centre.level.getD 0 - t.tnk.tank0.l.getD 0)) .subscribers]
    else []) ++
  tankHandovers s 0 .tank0Volume .tank0State s.tnk.tank0 t.tnk.tank0

/-! ### SEQ's record after a transition -/

/-- R20, R25: SEQ's record in RELEASE with the feedback set, entered now for the reason given with
the open request given: PTO_SHIFT off, the release timer started, no other timer. -/
def releasingSeq (s : State) (why : Reason) (r : Option OpenRequest) : SeqUnit :=
  { s.seq with
    mode := .disengaging, sub := some .release, reason := why, request := r, startWait := none
    shiftTimer := none, spinLimit := none
    releaseTimer := some ⟨s.timeBase, (conf s).timing.release⟩, ptoShift := false
    pumpReady := false }

/-- R21, R25: SEQ's record when a release completes now: the mode derived, reason CONDITION, no
request, no timer, PTO_SHIFT off. -/
def restingSeq (s : State) : SeqUnit :=
  { s.seq with
    mode := derivedMode s, sub := none, reason := .condition, request := none, startWait := none
    shiftTimer := none, spinLimit := none, releaseTimer := none, ptoShift := false
    pumpReady := false }

/-- R20, R21: the state when SEQ enters RELEASE now from its present mode and sub-stage, `before`
being what it posts before the transition, `after` what it posts directly after it, and `r` the
request that then stands open: the release waits with the feedback set and completes at once with it
clear. -/
def releaseOutcome (s : State) (why : Reason) (r : Option OpenRequest)
    (before after : List Handover) : State :=
  let entry := before ++ modeNotice s why .disengaging (some .release) s.seq.mode s.seq.sub ::
    (if s.seq.mode = .disengaging then [] else modeHandovers .disengaging) ++ after
  if feedback s then { s with seq := releasingSeq s why r, hand := s.hand ++ entry }
  else
    { s with
      seq := restingSeq s
      hand := s.hand ++ entry ++
        modeNotice s .condition (derivedMode s) none .disengaging (some .release) ::
          modeHandovers (derivedMode s) ++ outcomeNotices s r .completed 0 }

/-- R17, R20, R21: the state when SEQ enters SPIN_DOWN now, with the request `r` then open: it waits at
a pump speed above the disengage speed, and goes on to RELEASE at once at one that is not. -/
def spinDownOutcome (s : State) (why : Reason) (r : Option OpenRequest) : State :=
  let spinning : State := { s with
    seq := { s.seq with
      mode := .disengaging, sub := some .spinDown, reason := why, request := r, startWait := none
      shiftTimer := none, spinLimit := some ⟨s.timeBase, (conf s).timing.spinDown⟩
      releaseTimer := none, ptoShift := true, pumpReady := false }
    hand := s.hand ++ modeNotice s why .disengaging (some .spinDown) s.seq.mode s.seq.sub ::
      (if s.seq.mode = .disengaging then [] else modeHandovers .disengaging) }
  if s.lio.np ≤ (conf s).timing.disengageSpeed then releaseOutcome spinning .condition r [] []
  else spinning

/-- R6, R7: the state when SEQ reapplies the derivation now, in ROAD or PARKED. -/
def rederivedOutcome (s : State) : State :=
  if derivedMode s = s.seq.mode then s
  else
    { s with
      seq := { restingSeq s with request := s.seq.request }
      hand := s.hand ++ modeNotice s .condition (derivedMode s) none s.seq.mode s.seq.sub ::
        modeHandovers (derivedMode s) }

/-- R9: the state when port `p`'s ENGAGE starts a shift-in now. -/
def shiftingOutcome (p : Port) (s : State) : State :=
  { s with
    seq := { s.seq with
      mode := .shiftingIn, sub := none, reason := .request
      request := some ⟨p, .engage, s.timeBase⟩, startWait := none
      shiftTimer := some ⟨s.timeBase, (conf s).timing.shift⟩, spinLimit := none
      releaseTimer := none, ptoShift := true, pumpReady := false }
    hand := s.hand ++ modeNotice s .request .shiftingIn none s.seq.mode s.seq.sub ::
      modeHandovers .shiftingIn }

/-- R9, R10: the state when port `p`'s ENGAGE starts a shift-in now with the feedback set already:
the mode is PUMP in the same event, both transitions and the COMPLETED posted. -/
def engagedOutcome (p : Port) (s : State) : State :=
  let shifting := shiftingOutcome p s
  { shifting with
    seq := { shifting.seq with
      mode := .pump, reason := .condition, request := none, shiftTimer := none
      pumpReady := !holdsBlock s.seq.blocks .throttle }
    hand := shifting.hand ++ modeNotice s .condition .pump none .shiftingIn none ::
      modeHandovers .pump ++ outcomeNotices s (some ⟨p, .engage, s.timeBase⟩) .completed 0 }

/-- R14, R15: the state when a ROLL or STOP_ROLL takes the mode to `m`, ROLL or PUMP, now. -/
def rolledOutcome (m : Mode) (s : State) : State :=
  { s with
    seq := { s.seq with
      mode := m, sub := none, reason := .request, startWait := none, shiftTimer := none
      spinLimit := none, releaseTimer := none, ptoShift := true
      pumpReady := m == .pump && !holdsBlock s.seq.blocks .throttle }
    hand := s.hand ++ modeNotice s .request m none s.seq.mode s.seq.sub :: modeHandovers m }

/-- R5, R154: the state when SEQ leaves INIT now: STUCK and PTO_FOUND_ENGAGED with the feedback set,
the mode derived with it clear. -/
def startedOutcome (s : State) : State :=
  let leave (m : Mode) : State := { s with
    seq := { restingSeq s with mode := m, reason := .start, request := s.seq.request }
    hand := s.hand ++ modeNotice s .start m none s.seq.mode s.seq.sub :: modeHandovers m }
  if feedback s then
    { leave .stuck with ntq :=
        ⟨{ s.ntq.chassis with causes := { s.ntq.chassis.causes with ptoFoundEngaged := true } },
          { s.ntq.cab with causes := { s.ntq.cab.causes with ptoFoundEngaged := true } },
          { s.ntq.panel with causes := { s.ntq.panel.causes with ptoFoundEngaged := true } }⟩ }
  else leave (derivedMode s)

/-! ### Rows -/

/-- R49 to R52: what a row becomes when it is evaluated at `now`, `plain` and `wide` being whether its
condition holds under the plain and under the widened test. -/
def judged (now : Count32) (r : RowRecord) (plain wide : Bool) (slot : RowSlot) : RowSlot :=
  match slot.state, plain, wide with
  | .clear, true, _ => if r.hold = 0 then ⟨.active, none⟩ else ⟨.holding, some ⟨now, r.hold⟩⟩
  | .clear, false, _ => ⟨.clear, none⟩
  | .holding, true, _ => slot
  | .holding, false, _ => ⟨.clear, none⟩
  | .active, _, true => slot
  | .active, _, false => if r.latched then ⟨.latched, none⟩ else ⟨.clear, none⟩
  | .off, _, _ | .wait, _, _ | .latched, _, _ => slot

/-- R55: the ROW_STATE notices of a handling that begins in `s` and ends in `t`: one for each row whose
state then differs, in ascending order. -/
def rowNotices (s t : State) : List Handover :=
  (List.range 24).flatMap fun i =>
    if (rowSlot t i).state = (rowSlot s i).state then []
    else [notice s .lkt .rowState i
      (wordOfNat (256 * rowStateCode (rowSlot t i).state + rowStateCode (rowSlot s i).state))
      .subscribers]

/-- R55, R56, R58: `t` is what a handling by LKT that begins in `s` may end in: the block set is the
union of the blocks of the rows that are ACTIVE or LATCHED, DRIVE_PERMIT follows it, the table lock
stands, the notices of the changed rows are handed on, and the block set to SEQ, GOV and TNK exactly if
it has changed; beside LKT nothing else differs. -/
abbrev Handled (s t : State) : Prop :=
  (∀ n, t.lkt.blocks.getLsbD n = true ↔
    ∃ i < 24, ((rowSlot t i).state = .active ∨ (rowSlot t i).state = .latched) ∧
      (rowRecord (conf t) i).blocks.getLsbD n = true) ∧
  t.lkt.drivePermit = drivePermitFor t.lkt.mode (fillActive t) t.lkt.blocks ∧
  t.lkt.lock = s.lkt.lock ∧ t.lkt.rows.length = s.lkt.rows.length ∧
  t = { s with
    lkt := t.lkt
    hand := s.hand ++ rowNotices s t ++
      if t.lkt.blocks = s.lkt.blocks then []
      else [.blocksToSeq t.lkt.blocks, .blocksToGov t.lkt.blocks, .blocksToTnk t.lkt.blocks] }

/-- R52, R54: what a handling that begins in `s` and ends in `t` does to row `i` where its event does not
concern that row: it stands while its precursor is in effect or not as before, and follows a precursor
below it that has left effect or come into it. -/
abbrev Follows (s t : State) (i : Nat) : Prop :=
  let r := rowRecord (conf t) i
  let slot := rowSlot s i
  let acts (s : State) (p : Nat) : Bool := inEffect (rowSlot s p).state
  ((∀ p ∈ r.precursor, acts t p = acts s p) → rowSlot t i = slot) ∧
  ∀ p, r.precursor = some p → p < i →
    (acts s p = true → acts t p = false →
      (slot.state = .clear ∨ slot.state = .holding → rowSlot t i = ⟨.wait, none⟩) ∧
      (slot.state = .active → rowSlot t i = if r.latched then ⟨.latched, none⟩ else ⟨.wait, none⟩) ∧
      (slot.state = .off ∨ slot.state = .wait ∨ slot.state = .latched → rowSlot t i = slot)) ∧
    (acts s p = false → acts t p = true →
      (slot.state = .wait → r.enable = true → inMask r.mask t.lkt.mode = true →
        rowSlot t i = judged t.timeBase r (condition t i r false) (condition t i r true)
          ⟨.clear, none⟩) ∧
      (slot.state ≠ .wait → rowSlot t i = slot))

/-! ### The governor record -/

/-- R71: `t` is `s` with the governor record `g`, whose demand, where it has changed, is commanded on
the THROTTLE line and handed to LKT; `before` is posted before that and `after` after it. -/
abbrev Governed (s t : State) (g : GovUnit) (before after : List Handover) : Prop :=
  t = { s with
    gov := g, lio := { s.lio with throttle := t.lio.throttle }
    hand := s.hand ++ before ++
      (if g.d = s.gov.d then [] else [.arrival .gov .throttleDemand (some g.d)]) ++ after } ∧
  (g.d = s.gov.d → t.lio.throttle = s.lio.throttle) ∧
  (g.d ≠ s.gov.d → t.lio.throttle.commanded = g.d)

/-! ### Circumstances -/

/-- The circumstances of a command. -/
def whenOf : Instr → When
  | .supplyStart w => w
  | .resetLine w => w
  | .resetLineRelease w => w
  | .startUpLoadEnd w _ => w
  | .startUpWaitExpiry w => w
  | .settleIntervalExpiry w => w
  | .stabilityTimerExpiry w _ => w
  | .tachEdge w => w
  | .silenceTimerExpiry w => w
  | .roadPulseEdge w => w
  | .gateEnd w => w
  | .scanPeriodExpiry w => w
  | .conversionCompletion w _ => w
  | .throttlePwmPeriodStart w => w
  | .selectFall w _ => w
  | .selectRise w _ _ => w
  | .answerCompletion w _ => w
  | .readStatus w _ => w
  | .readRow w _ => w
  | .readNotice w _ => w
  | .readResetCause w _ => w
  | .readConfig w _ => w
  | .reportSpeed w _ => w
  | .engage w _ => w
  | .roll w _ => w
  | .stopRoll w _ => w
  | .disengage w _ => w
  | .setGovernor w _ => w
  | .selectSupply w _ => w
  | .fillStart w _ => w
  | .fillStop w _ => w
  | .ackRow w _ => w
  | .writeRow w _ => w
  | .lockTableSet w _ => w
  | .lockTableClear w _ => w
  | .writeConfig w _ => w
  | .storeConfig w _ => w
  | .storeEnd w _ => w
  | .postNote w _ => w
  | .shiftTimerExpiry w => w
  | .spinDownLimitExpiry w => w
  | .releaseTimerExpiry w => w
  | .holdTimerExpiry w _ => w
  | .fillTimeoutExpiry w => w
  | .stallWindowExpiry w => w
  | .staleTimerExpiry w => w
  | .disagreementTimerExpiry w => w
  | .inputSample w _ => w
  | .wordCompletion w _ _ => w

/-! ### SEQ -/

/-- R30, R9: the open request that a mode admits: an ENGAGE throughout SHIFTING_IN, a DISENGAGE or
none in DISENGAGING, none elsewhere. -/
def requestFits (m : Mode) (r : Option OpenRequest) : Bool :=
  match m, r.map OpenRequest.kind with
  | .shiftingIn, k => k == some .engage
  | .disengaging, k => k != some .engage
  | _, k => k == none

/-- R1, R8, R25, R26, R30: the sub-stage stands only in DISENGAGING, each timer runs exactly while
the mode or sub-stage that owns it lasts, the commands follow the mode, and the open request is one
that the mode admits. -/
abbrev SeqSound (u : SeqUnit) : Prop :=
  u.sub.isSome = (u.mode == .disengaging) ∧
  u.shiftTimer.isSome = (u.mode == .shiftingIn) ∧
  u.spinLimit.isSome = (u.sub == some .spinDown) ∧
  u.releaseTimer.isSome = (u.sub == some .release) ∧
  u.ptoShift = ptoShiftFor u.mode u.sub ∧
  u.pumpReady = pumpReadyFor u.mode u.blocks ∧
  requestFits u.mode u.request = true

/-! ### LKT -/

/-- R40, R50, R56, R58: 24 rows and 17 sources; a hold timer runs exactly while its row is HOLDING;
the block set is the union of the blocks of the rows in effect; DRIVE_PERMIT follows the mode, the
fill and the block set. -/
abbrev LktSound (s : State) : Prop :=
  s.lkt.rows.length = 24 ∧ s.lkt.sources.length = 17 ∧
  (∀ x ∈ s.lkt.rows, x.timer.isSome = (x.state == .holding)) ∧
  s.lkt.blocks = derivedBlocks s ∧
  s.lkt.drivePermit = drivePermitFor s.lkt.mode (fillActive s) s.lkt.blocks

/-! ### Copies -/

/-- What a unit holds once it has taken every hand-over under way: of those that `f` reads, the last
stands, and what it holds now where there is none. -/
def awaited {α : Type} (f : Handover → Option α) (kept : α) (hand : List Handover) : α :=
  hand.foldl (fun x h => (f h).getD x) kept

/-- The mode that a hand-over brings LKT. -/
def modeForLkt : Handover → Option Mode
  | .modeToLkt m => some m
  | _ => none

/-- The mode that a hand-over brings GOV. -/
def modeForGov : Handover → Option Mode
  | .modeToGov m => some m
  | _ => none

/-- The mode that a hand-over brings TNK. -/
def modeForTnk : Handover → Option Mode
  | .modeToTnk m => some m
  | _ => none

/-- The block set that a hand-over brings SEQ. -/
def blocksForSeq : Handover → Option BlockSet
  | .blocksToSeq b => some b
  | _ => none

/-- The block set that a hand-over brings GOV. -/
def blocksForGov : Handover → Option BlockSet
  | .blocksToGov b => some b
  | _ => none

/-- The block set that a hand-over brings TNK. -/
def blocksForTnk : Handover → Option BlockSet
  | .blocksToTnk b => some b
  | _ => none

/-- The supply that a hand-over brings GOV. -/
def supplyForGov : Handover → Option Supply
  | .supplyToGov x => some x
  | _ => none

/-- The value of source `x` that a hand-over brings LKT. -/
def valueForLkt (x : Source) : Handover → Option (Option Int)
  | .arrival _ y v => if y = x then some v else none
  | _ => none

/-- An arrival of SUPPLY or FILL_ACTIVE that TNK has not sent. -/
def isStray : Handover → Bool
  | .arrival sender x _ => (x == .supply || x == .fillActive) && sender != .tnk
  | _ => false

/-- R48, R73, R102, R56, R101, R104, R109: once every hand-over under way is taken, the mode that LKT,
GOV and TNK hold is SEQ's, the block set that SEQ, GOV and TNK hold is LKT's, the supply that GOV and
LKT hold is TNK's, and LKT knows whether a fill is open. -/
abbrev CopiesAgree (s : State) : Prop :=
  awaited modeForLkt s.lkt.mode s.hand = s.seq.mode ∧
  awaited modeForGov s.gov.mode s.hand = s.seq.mode ∧
  awaited modeForTnk s.tnk.mode s.hand = s.seq.mode ∧
  awaited blocksForSeq s.seq.blocks s.hand = s.lkt.blocks ∧
  awaited blocksForGov s.gov.blocks s.hand = s.lkt.blocks ∧
  awaited blocksForTnk s.tnk.blocks s.hand = s.lkt.blocks ∧
  awaited supplyForGov s.gov.supply s.hand = s.tnk.supply ∧
  awaited (valueForLkt .supply) (sourceSlot s .supply).latest s.hand =
    some (supplyCode s.tnk.supply : Int) ∧
  awaited (valueForLkt .fillActive) (sourceSlot s .fillActive).latest s.hand =
    some (bit s.tnk.fill.isSome : Int) ∧
  s.lkt.sources.length = 17 ∧ s.hand.any isStray = false

/-- Section 3.4: the state of row `i` is one that its record, the mode and its precursor admit. -/
abbrev RowFits (s : State) (i : Nat) : Prop :=
  let r := rowRecord (conf s) i
  let takesPart : Prop := r.enable = true ∧ inMask r.mask s.lkt.mode = true
  let mayAct : Prop := ∀ p ∈ r.precursor, inEffect (rowSlot s p).state = true
  match (rowSlot s i).state with
  | .off => ¬takesPart
  | .wait => takesPart ∧ ¬mayAct
  | .clear | .holding | .active => takesPart ∧ mayAct
  | .latched => True

/-- Section 3.4, for every row, once the table has been placed. -/
abbrev RowsSound (s : State) : Prop := s.phase = .running → ∀ i < 24, RowFits s i

/-! ### GOV -/

/-- R74, R70: D lies in 0..C, and is 0 outside PUMP and ROLL and under a THROTTLE block; e_prev lies
in its range; the THROTTLE line is commanded to D and is at no greater duty. -/
abbrev GovSound (s : State) : Prop :=
  s.gov.d ≤ s.gov.c ∧
  (pumping s.gov.mode = false → s.gov.d = 0) ∧
  (holdsBlock s.gov.blocks .throttle = true → s.gov.d = 0) ∧
  -1000 ≤ s.gov.ePrev ∧ s.gov.ePrev ≤ 1000 ∧
  s.lio.throttle.commanded = s.gov.d ∧ s.lio.throttle.inForce ≤ s.gov.d

/-! ### TNK -/

/-- R104, R105, R108: a fill record stands in PARKED or PUMP only, its target not above FULL, its
stall window running exactly while the check is not suspended. -/
abbrev FillSound (s : State) (f : Fill) : Prop :=
  (s.tnk.mode = .parked ∨ s.tnk.mode = .pump) ∧
  f.target ≤ (conf s).tank0.full ∧
  f.suspended = stallSuspended s.tnk.supply s.tnk.mode ∧
  f.stall.isSome = !f.suspended

/-- R102, R104: the valves follow their conditions, and an open fill is sound. -/
abbrev TnkSound (s : State) : Prop :=
  s.tnk.tankValve = tankValveFor s.tnk.supply s.tnk.mode s.tnk.blocks ∧
  s.tnk.fillValve = s.tnk.fill.isSome ∧
  ∀ f ∈ s.tnk.fill, FillSound s f

/-! ### SPD -/

/-- R112, R114, R118, R119: the speed record is the one that the freshness and the last report
give. -/
abbrev SpdSound (u : SpdUnit) : Prop :=
  u.staleTimer.isSome = (u.freshness == .fresh) ∧
  (u.freshness = .fresh → u.report.isSome = true) ∧
  u.disTimer.isSome = (u.disagreement == .differing) ∧
  (u.freshness = .stale → u.disagreement = .agree) ∧
  combineSpeed u = u ∧
  u.measured ≤ 1500 ∧ u.value ≤ 1500 ∧ ∀ r ∈ u.report, r.speed ≤ 1500

/-! ### CNV -/

/-- R128, R131 to R133: channel `n`'s value lies in its kind's range, and a run of good codes is
counted only while FAULTED and is shorter than three. -/
abbrev ChannelSound (n : Nat) (c : Channel) : Prop :=
  kindClamp n c.value = c.value ∧ c.run ≤ 2 ∧ (c.faulted = false → c.run = 0)

/-- R128: eight sound channels. -/
abbrev CnvSound (s : State) : Prop :=
  s.cnv.channels.length = 8 ∧ ∀ n < 8, ChannelSound n (channelOf s n)

/-! ### NTQ and LNK -/

/-- R149: at most 16 records, a lost count of at most 255. -/
abbrev QueueSound (q : NtqPort) : Prop := q.queue.length ≤ 16 ∧ q.lost ≤ 255

/-- R149, for the three ports. -/
abbrev NtqSound (s : State) : Prop := ∀ p : Port, QueueSound (portGet s.ntq p)

/-- R139: a request handed to its owner has its kind's number of arguments. -/
def preparationFits : Option Preparation → Bool
  | some (.asked k args) => args.length == argumentCount k
  | some (.answered _) | none => true

/-- R138, R139, R143: PREPARING holds a request in preparation and IDLE none; a frame that began
while one was in preparation is marked for discard; the arguments are the words after the header,
as many as its count; a request in preparation has its kind's number of them. -/
abbrev LinkSound (l : Link) : Prop :=
  (l.state = .preparing → l.preparation.isSome = true) ∧
  (l.state = .idle → l.preparation = none) ∧
  (l.state = .receiving → l.preparation.isSome = true → l.discard = true) ∧
  (l.state ≠ .receiving → l.words = 0 ∧ l.header = none ∧ l.args = []) ∧
  l.words ≤ 11 ∧ l.header.isSome = decide (1 ≤ l.words) ∧
  l.args.length = min (min (l.words - 1) ((l.header.map Header.count).getD 0)) 9 ∧
  preparationFits l.preparation = true

/-- The three links are sound. -/
abbrev LnkSound (s : State) : Prop := ∀ p : Port, LinkSound (portGet s.links p)

/-! ### CFG and the resets -/

/-- The image, where it checks good, is one that R160 writes of some valid configuration. -/
abbrev ImageSound (s : State) : Prop :=
  imageGood s.cfg.image = true → (configOfWords s.cfg.image.words).isSome = true

/-- R29, R99, R144, R157: the working configuration's values lie in their ranges and are
consistent. -/
abbrev ConfigSound (s : State) : Prop := ∀ c ∈ s.cfg.working, configValid c = true

/-- R67: a held table lock is held by a port that has the CONFIG right. -/
abbrev LockSound (s : State) : Prop :=
  ∀ q ∈ s.lkt.lock, s.phase = .running → portHolds s q .config = true

/-- R163, R162, R138: until the start-up load ends the units stand at their reset values. -/
abbrev HeldSound (s : State) : Prop :=
  s.phase ≠ .running →
    s.seq = resetSeq ∧ s.lkt = resetLkt ∧ s.gov = resetGov ∧ s.tnk = resetTnk ∧
    s.spd = resetSpd ∧ s.cnv = resetCnv ∧ s.lio = resetLio ∧
    s.cfg.working = none ∧ s.cfg.storeBusy = false ∧ s.hand = [] ∧
    (s.phase = .held → s.timeBase = 0)

/-! ### Blocks that cannot come about within a step -/

/-- Whether a row can put PTO or FILL into the block set in the midst of a step: only the fixed rows
list them; rows 3, 8 and 11 are not in effect; row 3 has a hold; CONFIG_INVALID and PANEL_STOP are
clear as LKT knows them. -/
abbrev Unblocked (s : State) : Prop :=
  (∀ r ∈ (conf s).rows, holdsBlock r.blocks .pto = false ∧ holdsBlock r.blocks .fill = false) ∧
  (conf s).fixedRows.hold3 ≠ 0 ∧
  inEffect (rowSlot s 3).state = false ∧
  inEffect (rowSlot s 8).state = false ∧
  inEffect (rowSlot s 11).state = false ∧
  (sourceSlot s .configInvalid).latest = some 0 ∧
  (∀ v ∈ (sourceSlot s .inputs).latest, maskedSame v 8 8 = false)

end Sys2Proof.Machine
end

