-- ==== Sys2Proof/Certificates/Slice0/Obligations.lean ====
section
/-! DEFINITION. The statements about the model, for the provers.  In them `u` is the state once the
command's time has passed, so that `u.timeBase` is the moment of the command. -/

open Sys2Proof Sys2Proof.Machine

/-! ### The step and the queue -/

/-- A command at the front of the queue is run on the state with the queue's rest. -/
def Obligations.StepRunsTheFrontCommand : Prop :=
  ∀ (c : Instr) (rest : List Instr) (s : State), s.pending = c :: rest →
    step s = exec c { s with pending := rest }

/-- No command alters the commands that wait behind it; that they stand outside the part, so that
even a reset leaves them, is the model's choice (log entry 25). -/
def Obligations.CommandsLeaveTheQueue : Prop :=
  ∀ (c : Instr) (s : State), ∃ t, exec c s = .next t ∧ t.pending = s.pending

/-- 00_scope.md, "Signal paths": a step whose circumstances leave none for later takes every hand-over
under way and every one that this causes, and so does a tick; how many a step takes is the model's
choice where the spec lets what reaches a unit together be taken in either order (log entries 11 and
17). -/
def Obligations.StepTakesEveryHandOver : Prop :=
  ∀ s t : State, (∀ c rest, s.pending = c :: rest → (whenOf c).takes = none) →
    step s = .next t → t.hand = []

/-! ### Invariants that every step keeps -/

/-- R1, R8, R25, R26, R30. -/
def Obligations.StepKeepsTheModeRecordSound : Prop :=
  ∀ s t : State, SeqSound s.seq → step s = .next t → SeqSound t.seq

/-- R163, R162: until the start-up load ends the units stand at their reset values, some of which
are the model's choice (log entry 6). -/
def Obligations.StepKeepsTheUnitsHeldUntilTheLoadEnds : Prop :=
  ∀ s t : State, HeldSound s → step s = .next t → HeldSound t

/-- R74. -/
def Obligations.StepKeepsTheDemandUnderItsCeiling : Prop :=
  ∀ s t : State, HeldSound s → GovSound s → step s = .next t → GovSound t

/-- R102, R104, R108. -/
def Obligations.StepKeepsValvesAndFillSound : Prop :=
  ∀ s t : State, HeldSound s → TnkSound s → step s = .next t → TnkSound t

/-- R40, R50, R56, R58; and R2, R56, R100, R101, R104: what SEQ, LKT, GOV and TNK hold of each other's
mode, block set, supply and fill is what its owner holds, once every hand-over under way is taken. -/
def Obligations.StepKeepsTheLockoutTableSound : Prop :=
  (∀ s t : State, LktSound s → step s = .next t → LktSound t) ∧
  ∀ s t : State, HeldSound s → CopiesAgree s → step s = .next t → CopiesAgree t

/-- Section 3.4 (R47, R49, R53, R54): every row's state is one that its record, the mode and its
precursor admit.  The premises on the configuration and the image keep every precursor below its
row (R64). -/
def Obligations.StepKeepsEveryRowStateFitting : Prop :=
  ∀ s t : State, ConfigSound s → ImageSound s → LktSound s → RowsSound s →
    step s = .next t → RowsSound t

/-- R67. -/
def Obligations.StepKeepsTheLockWithAConfigHolder : Prop :=
  ∀ s t : State, HeldSound s → LockSound s → step s = .next t → LockSound t

/-- R112, R114, R118, R119. -/
def Obligations.StepKeepsTheSpeedRecordSound : Prop :=
  ∀ s t : State, SpdSound s.spd → step s = .next t → SpdSound t.spd

/-- R128, R131 to R133. -/
def Obligations.StepKeepsTheChannelsInRange : Prop :=
  ∀ s t : State, CnvSound s → step s = .next t → CnvSound t

/-- R149. -/
def Obligations.StepKeepsTheQueuesBounded : Prop :=
  ∀ s t : State, NtqSound s → step s = .next t → NtqSound t

/-- R138, R139, R143: in particular each port has at most one request in preparation, handed on
with its kind's number of arguments.  That a frame's fields are clear outside it, and its words
counted to 11, is the model's choice (log entry 13). -/
def Obligations.StepKeepsTheLinksSound : Prop :=
  ∀ s t : State, LnkSound s → step s = .next t → LnkSound t

/-- R29, R99, R144, R157: no command leaves a value of the working configuration out of its range
or inconsistent; and the image stays one that R160 writes, but for a store whose words the memory
did not hold as written. -/
def Obligations.StepKeepsTheConfigurationValid : Prop :=
  ∀ s t : State, ImageSound s → ConfigSound s → step s = .next t →
    ConfigSound t ∧
    ((∀ w flaws rest, s.pending = .storeEnd w flaws :: rest → flaws = []) → ImageSound t)

/-- The state after reset meets every invariant.  In it these are the model's choices: that the image
holds the factory configuration (log entry 7), the values before the start-up load ends that the spec
does not give (log entry 6), the select lines high (log entry 19), and that it is the part right after
a supply start, with no command waiting (log entry 25). -/
def Obligations.ResetMeetsEveryInvariant : Prop :=
  SeqSound State.reset.seq ∧ HeldSound State.reset ∧ GovSound State.reset ∧
  TnkSound State.reset ∧ LktSound State.reset ∧ RowsSound State.reset ∧ LockSound State.reset ∧
  SpdSound State.reset.spd ∧ CnvSound State.reset ∧ NtqSound State.reset ∧ LnkSound State.reset ∧
  ImageSound State.reset ∧ ConfigSound State.reset ∧ CopiesAgree State.reset

/-! ### The image -/

/-- R160, R162: the words that a store writes of a valid configuration are read back at a start-up
load as that configuration. -/
def Obligations.ImageReadsBackAsWritten : Prop :=
  ∀ c : WorkingConfig, configValid c = true → configOfWords (imageWords c) = some c

/-! ### Resets and the start-up load -/

/-- R163, R4, R154: SUPPLY_START and RESET_LINE, a supply start while the RESET line is low, and
RESET_LINE_RELEASE.  The model's choices in it: some reset values (log entry 6), the image's words
kept and marked not whole after a store that the reset abandons (log entry 18), the level of the
select lines kept (log entry 19), the waiting commands kept (log entry 25). -/
def Obligations.ResetsGiveEveryRecordItsResetValue : Prop :=
  ∀ (w : When) (s : State),
    let reset (t : State) (phase : Phase) (causes : CauseSet) : Prop :=
      t.phase = phase ∧ t.timeBase = 0 ∧ t.seq = resetSeq ∧ t.lkt = resetLkt ∧
      t.gov = resetGov ∧ t.tnk = resetTnk ∧ t.spd = resetSpd ∧ t.cnv = resetCnv ∧
      t.lio = resetLio ∧ t.cfg.working = none ∧ t.cfg.staging = samePorts none ∧
      t.cfg.storeBusy = false ∧ t.ntq = samePorts ⟨[], 0, causes⟩ ∧
      (∀ p, portGet t.links p = resetLink (portGet s.links p).selectLow) ∧
      t.cfg.image =
        (if s.cfg.storeBusy then { s.cfg.image with whole := false } else s.cfg.image) ∧
      t.hand = [] ∧ t.pending = s.pending
    (s.phase ≠ .held → ∃ t, exec (.supplyStart w) s = .next t ∧
      reset t .loading ⟨true, false, false, false⟩) ∧
    (s.phase = .held → ∃ t, exec (.supplyStart w) s = .next t ∧
      reset t .held ⟨false, true, false, false⟩) ∧
    (∃ t, exec (.resetLine w) s = .next t ∧ reset t .held ⟨false, true, false, false⟩) ∧
    (s.phase = .held → s.hand = [] →
      exec (.resetLineRelease w) s = .next { s with phase := .loading })

/-- R162, R70, R101, R69, R5, R122, R127, R129: START_UP_LOAD_END with an image that checks good.  What
an image holds that names no value is left open (log entry 4). -/
def Obligations.GoodImageBecomesTheWorkingConfiguration : Prop :=
  (∀ (w : When) (lines : Levels) (s : State),
    s.phase = .loading → imageGood s.cfg.image = true →
    let u := advance w.dt s
    let c := configOfImage s.cfg.image.words
    ∃ t, exec (.startUpLoadEnd w lines) s = .next t ∧
      still t = { still u with
        phase := .running
        cfg := { u.cfg with working := some c, configInvalid := false }
        inputs := firstSample lines
        settle := some ⟨u.timeBase, c.timing.debounce⟩
        published := false
        gate := some ⟨u.timeBase, c.rates.gate⟩
        gateCount := 0
        periodStart := some u.usCount
        cnv := { u.cnv with
          toConvert := c.scanList, begun := u.usCount
          scanPeriod := some ⟨u.timeBase, c.rates.scanPeriod⟩ } } ∧
      (HeldSound s →
        t.seq.mode = .init ∧ t.seq.startWait = some ⟨u.timeBase, c.timing.debounce⟩ ∧
        t.gov.governing = .pressure ∧ t.gov.sp = c.govDefaults.pressure ∧
        t.gov.sn = c.govDefaults.speed ∧ t.gov.d = 0 ∧ t.gov.cIntake = c.gains.ceiling ∧
        t.gov.c = (if holdsBlock t.gov.blocks .throttle then 0 else c.gains.ceiling) ∧
        t.gov.supply = c.fillItems.supplyDefault ∧ t.gov.watch = .off ∧
        t.tnk.supply = c.fillItems.supplyDefault ∧ t.tnk.fill = none ∧
        (sourceSlot t .supply).latest = some (supplyCode c.fillItems.supplyDefault) ∧
        (sourceSlot t .configInvalid).latest = some 0)) ∧
  ∀ c : WorkingConfig, configOfWords (imageWords c) = some c →
    configOfImage (imageOf c).words = c

/-- R162, R154: START_UP_LOAD_END with an image that fails its check. -/
def Obligations.BadImageGivesTheFactoryDefaults : Prop :=
  ∀ (w : When) (lines : Levels) (s : State),
    s.phase = .loading → imageGood s.cfg.image = false →
    ∃ t, exec (.startUpLoadEnd w lines) s = .next t ∧
      t.phase = .running ∧ t.cfg.working = some factory ∧ t.cfg.configInvalid = true ∧
      t.cfg.image = s.cfg.image ∧
      ∀ p, (portGet t.ntq p).causes =
        { (portGet s.ntq p).causes with configDefaulted := true }

/-- R69: the table placement with the fixed rows alone, on the factory configuration, which the
image holds before any store by the model's choice (log entry 7). -/
def Obligations.PlacementAfterAReset : Prop :=
  ∀ (w : When) (lines : Levels),
    ∃ t, exec (.startUpLoadEnd w lines) State.reset = .next t ∧
      t.lkt.rows.map RowSlot.state =
        [.active, .off, .off, .off, .active, .clear, .off, .off, .clear, .off, .off, .clear] ++
          List.replicate 12 .off ∧
      t.lkt.blocks = 0x05 ∧ t.lkt.drivePermit = false ∧
      ∀ p, (portGet t.ntq p).queue = []

/-- R5, R154: START_UP_WAIT_EXPIRY, with what SEQ posts and hands on. -/
def Obligations.StartUpWaitEndsInStuckOrOnTheRoad : Prop :=
  ∀ (w : When) (s : State), s.phase = .running → s.hand = [] → s.seq.mode = .init →
    let u := advance w.dt s
    timerDue u.timeBase s.seq.startWait = true →
    exec (.startUpWaitExpiry w) s = .next (takeHandovers w (startedOutcome u)) ∧
    ∃ t, exec (.startUpWaitExpiry w) s = .next t ∧
      t.seq.reason = .start ∧ t.seq.sub = none ∧ t.seq.ptoShift = false ∧
      t.seq.startWait = none ∧
      (feedback s = true →
        t.seq.mode = .stuck ∧
        still t = { still u with causes :=
          ⟨{ s.ntq.chassis.causes with ptoFoundEngaged := true },
            { s.ntq.cab.causes with ptoFoundEngaged := true },
            { s.ntq.panel.causes with ptoFoundEngaged := true }⟩ }) ∧
      (feedback s = false →
        still t = still u ∧
        t.seq.mode = if secured s = true ∧ s.spd.value = 0 ∧ quality s.spd = .good then .parked
          else .road)

/-! ### Inputs, pulses, gates -/

/-- R123: INPUT_SAMPLE, for each of the four inputs. -/
def Obligations.SampleRunsTheStabilityTimers : Prop :=
  ∀ (w : When) (lines : Levels) (s : State), s.phase = .running → s.hand = [] →
    let u := advance w.dt s
    ∃ t, exec (.inputSample w lines) s = .next t ∧
      t = { u with lio := { u.lio with inputs := t.lio.inputs } } ∧
      ∀ i : DiscreteInput,
        let x := inputGet s.lio.inputs i
        let y := inputGet t.lio.inputs i
        y.raw = readsSet i lines ∧ y.debounced = x.debounced ∧
        (readsSet i lines = x.debounced → y.timer = none) ∧
        (readsSet i lines ≠ x.debounced → ∀ k, x.timer = some k → y.timer = some k) ∧
        (readsSet i lines ≠ x.debounced → x.timer = none →
          y.timer = some ⟨u.timeBase, (conf s).timing.debounce⟩)

/-- R123, R124: STABILITY_TIMER_EXPIRY: the debounced level of that input takes the raw level;
SETTLE_INTERVAL_EXPIRY: the input word is published; both hand the word to SEQ and to LKT.  That a
change accepted before the settle interval has expired is not published by itself is the model's
reading of R122 against R123 and R124 (DEDUCED, log entry 12).  R10, R11, R19, R21, R23, R24, R7: what
SEQ does with the word, a shift-in by the word published and otherwise by the levels as they stand
(DEDUCED, log entry 9). -/
def Obligations.InputChangesAreAcceptedAndPublished : Prop :=
  (∀ (w : When) (i : DiscreteInput) (s : State), s.phase = .running →
    let u := advance w.dt s
    let x := inputGet s.lio.inputs i
    let inputs := inputSet s.lio.inputs i ⟨x.raw, x.raw, none⟩
    let word (inputs : Inputs) : List Handover :=
      [.wordToSeq (inputWord inputs), .arrival .lio .inputs (some (inputWord inputs))]
    (timerDue u.timeBase x.timer = true →
      (∃ t, exec (.stabilityTimerExpiry w i) s = .next t ∧
        still t = { still u with inputs := inputs }) ∧
      (s.hand = [] →
        exec (.stabilityTimerExpiry w i) s = .next (takeHandovers w { u with
          lio := { s.lio with inputs := inputs }
          hand := if s.lio.published then word inputs else [] }))) ∧
    (timerDue u.timeBase s.lio.settle = true →
      (∃ t, exec (.settleIntervalExpiry w) s = .next t ∧
        still t = { still u with settle := none, published := true }) ∧
      (s.hand = [] →
        exec (.settleIntervalExpiry w) s = .next (takeHandovers w { u with
          lio := { s.lio with settle := none, published := true }
          hand := word s.lio.inputs })))) ∧
  (∀ (word : Nat) (s : State),
    let t := deliver (.wordToSeq word) s
    (s.seq.mode = .shiftingIn →
      let pumping_ : State := { s with
        seq := { s.seq with
          mode := .pump, sub := none, reason := .condition, request := none
          startWait := none, shiftTimer := none, spinLimit := none, releaseTimer := none
          ptoShift := true, pumpReady := !holdsBlock s.seq.blocks .throttle }
        hand := s.hand ++ modeNotice s .condition .pump none .shiftingIn s.seq.sub ::
          modeHandovers .pump ++ outcomeNotices s s.seq.request .completed 0 }
      (wordFeedback word = true → holdsBlock s.seq.blocks .pto = false → t = pumping_) ∧
      (wordFeedback word = true → holdsBlock s.seq.blocks .pto = true →
        t = spinDownOutcome pumping_ .block none) ∧
      (wordFeedback word = false → wordSecured word = false →
        t = releaseOutcome s .condition none [] (outcomeNotices s s.seq.request .aborted 0)) ∧
      (wordFeedback word = false → wordSecured word = true → t = s)) ∧
    (s.seq.mode = .pump ∨ s.seq.mode = .roll ∨
        s.seq.mode = .disengaging ∧ s.seq.sub = some .spinDown →
      feedback s = false → t = releaseOutcome s .feedbackLost s.seq.request [] []) ∧
    (s.seq.mode = .disengaging → s.seq.sub = some .release → feedback s = false →
      t = { s with
        seq := restingSeq s
        hand := s.hand ++ modeNotice s .condition (derivedMode s) none .disengaging (some .release) ::
          modeHandovers (derivedMode s) ++ outcomeNotices s s.seq.request .completed 0 }) ∧
    (s.seq.mode = .stuck → feedback s = false →
      t = { s with
        seq := { restingSeq s with request := s.seq.request }
        hand := s.hand ++ modeNotice s .condition (derivedMode s) none .stuck s.seq.sub ::
          modeHandovers (derivedMode s) }) ∧
    (s.seq.mode = .pump ∨ s.seq.mode = .roll ∨ s.seq.mode = .disengaging ∨
      s.seq.mode = .stuck → feedback s = true → t = s) ∧
    (s.seq.mode = .road ∨ s.seq.mode = .parked → t = rederivedOutcome s) ∧
    (s.seq.mode = .init → t = s)) ∧
  (∀ (inputs : Inputs),
    (wordFeedback (inputWord inputs) = inputs.ptoFeedback.debounced) ∧
    (wordSecured (inputWord inputs) =
      (inputs.parkBrake.debounced && inputs.neutralSense.debounced))) ∧
  ∀ (v : Int) (s : State), s.lkt.sources.length = 17 →
    sourceSlot (deliver (.arrival .lio .inputs (some v)) s) .inputs = ⟨some v, some v⟩

/-- R125, R126: TACH_EDGE, SILENCE_TIMER_EXPIRY, and an expiry that belongs to no running timer; each
publication goes to SEQ and to LKT.  What SEQ does with what is handed to it besides the input word:
R18 with a pump speed, R24 and R26 with a block set, R7 with a change of the speed value or quality. -/
def Obligations.TachEdgesAndSilenceGiveThePumpSpeed : Prop :=
  (∀ (w : When) (s : State), s.phase = .running →
    let u := advance w.dt s
    let speed (np : Nat) : List Handover := [.pumpToSeq np, .arrival .lio .pumpSpeed (some np)]
    (∃ t, exec (.tachEdge w) s = .next t ∧
      still t = { still u with
        np := t.lio.np, prevEdge := some u.usCount, silence := some ⟨u.timeBase, 500⟩ } ∧
      (s.lio.prevEdge = none → t.lio.np = s.lio.np) ∧
      (∀ e, s.lio.prevEdge = some e →
        let period := (u.usCount - e).toNat
        0 < period * (conf s).rates.q →
        t.lio.np = min 4000 (60000000 / (period * (conf s).rates.q))) ∧
      (s.hand = [] → t = takeHandovers w { u with
        lio := { s.lio with
          np := t.lio.np, prevEdge := some u.usCount, silence := some ⟨u.timeBase, 500⟩ }
        hand := speed t.lio.np })) ∧
    (timerDue u.timeBase s.lio.silence = true →
      ∃ t, exec (.silenceTimerExpiry w) s = .next t ∧
        still t = { still u with np := 0, prevEdge := none, silence := none } ∧
        (s.hand = [] → t = takeHandovers w { u with
          lio := { s.lio with np := 0, prevEdge := none, silence := none }
          hand := speed 0 })) ∧
    (timerDue u.timeBase s.lio.silence = false → s.hand = [] →
      exec (.silenceTimerExpiry w) s = .next u)) ∧
  (∀ (np : Nat) (s : State),
    let t := deliver (.pumpToSeq np) s
    let spinning := s.seq.mode = .disengaging ∧ s.seq.sub = some .spinDown
    (spinning → np ≤ (conf s).timing.disengageSpeed →
      t = releaseOutcome s .condition s.seq.request [] []) ∧
    (¬spinning ∨ (conf s).timing.disengageSpeed < np → t = s)) ∧
  (∀ (b : BlockSet) (s : State),
    let t := deliver (.blocksToSeq b) s
    let taken : State := { s with seq := { s.seq with
      blocks := b, pumpReady := s.seq.mode == .pump && !holdsBlock b .throttle } }
    (holdsBlock b .pto = false → t = taken) ∧
    (holdsBlock b .pto = true →
      (s.seq.mode = .shiftingIn →
        t = releaseOutcome taken .block none [] (outcomeNotices s s.seq.request .aborted 0)) ∧
      (s.seq.mode = .pump ∨ s.seq.mode = .roll →
        t = spinDownOutcome taken .block s.seq.request) ∧
      (s.seq.mode = .init ∨ s.seq.mode = .road ∨ s.seq.mode = .parked ∨
        s.seq.mode = .disengaging ∨ s.seq.mode = .stuck → t = taken))) ∧
  ∀ s : State,
    let t := deliver .speedToSeq s
    (s.seq.mode = .road ∨ s.seq.mode = .parked → t = rederivedOutcome s) ∧
    (s.seq.mode ≠ .road → s.seq.mode ≠ .parked → t = s)

/-- R127, R117, R118, R119, R120, R121: ROAD_PULSE_EDGE and GATE_END, with what SPD hands on. -/
def Obligations.GatesCountPulsesAndMeasureTheSpeed : Prop :=
  ∀ (w : When) (s : State), s.phase = .running →
    let u := advance w.dt s
    (s.hand = [] → exec (.roadPulseEdge w) s =
      .next { u with lio := { u.lio with
        gateCount := if s.lio.gateCount < 65535 then s.lio.gateCount + 1 else 65535 } }) ∧
    ∀ g, s.lio.gate = some g → timerDue u.timeBase (some g) = true →
      let product := g.length * (conf s).rates.pulsesPerKm
      0 < product →
      ∃ t, exec (.gateEnd w) s = .next t ∧
        still t = { still u with
          spd := t.spd, gateCount := 0, gate := some ⟨u.timeBase, (conf s).rates.gate⟩ } ∧
        (s.hand = [] → t = takeHandovers w { u with
          spd := t.spd
          lio := { s.lio with
            gateCount := 0, gate := some ⟨u.timeBase, (conf s).rates.gate⟩ }
          hand := speedHandovers u true s.spd t.spd }) ∧
        t.spd.measured = min 1500 (s.lio.gateCount * 36000000 / product) ∧
        t.spd.report = s.spd.report ∧ t.spd.freshness = s.spd.freshness ∧
        t.spd.staleTimer = s.spd.staleTimer ∧
        (s.spd.freshness = .stale →
          t.spd.value = t.spd.measured ∧ t.spd.transmission = .unknown ∧
          t.spd.disagreement = s.spd.disagreement ∧ t.spd.disTimer = s.spd.disTimer) ∧
        ∀ r, s.spd.freshness = .fresh → s.spd.report = some r →
          let differs := ((conf s).tolerances.speed : Int) < |(r.speed : Int) - t.spd.measured|
          t.spd.value = max r.speed t.spd.measured ∧ t.spd.transmission = r.transmission ∧
          (¬differs → t.spd.disagreement = .agree ∧ t.spd.disTimer = none) ∧
          (differs → s.spd.disagreement = .agree →
            t.spd.disagreement = .differing ∧ t.spd.disTimer = some ⟨u.timeBase, 2000⟩) ∧
          (differs → s.spd.disagreement ≠ .agree →
            t.spd.disagreement = s.spd.disagreement ∧ t.spd.disTimer = s.spd.disTimer)

/-! ### The converter and the THROTTLE line -/

/-- R129 to R134: SCAN_PERIOD_EXPIRY and CONVERSION_COMPLETION, with the SENSOR notice of a fault or a
recovery and the value with its mark handed to the consumers of the channel.  That an expiry which finds
entries still to convert drops them and starts the next scan is the model's choice (log entry 37). -/
def Obligations.ScansConvertTheListedChannels : Prop :=
  (∀ (w : When) (s : State), s.phase = .running → s.hand = [] →
    let u := advance w.dt s
    timerDue u.timeBase s.cnv.scanPeriod = true →
    exec (.scanPeriodExpiry w) s =
      .next { u with cnv := { s.cnv with
        toConvert := (conf s).scanList, begun := u.usCount
        scanPeriod := some ⟨u.timeBase, (conf s).rates.scanPeriod⟩ } }) ∧
  ∀ (w : When) (code : BitVec 12) (s : State) (channel : Nat) (rest : List Nat) (k : Calibration),
    s.phase = .running → s.cnv.toConvert = channel :: rest → s.cnv.channels.length = 8 →
    channel < 8 → (conf s).calibration[channel]? = some k →
    let u := advance w.dt s
    let old := channelOf s channel
    let value := kindClamp channel
      (roundedDiv (((code.toNat : Int) - k.offset) * k.gain) 1024)
    100 ≤ (u.usCount - s.cnv.begun).toNat →
    ∃ t, exec (.conversionCompletion w code) s = .next t ∧
      still t = { still u with cnv := t.cnv } ∧
      (s.hand = [] → t = takeHandovers w { u with
        cnv := t.cnv
        hand := conversionHandovers u channel code.toNat old (channelOf t channel) }) ∧
      t.cnv.toConvert = rest ∧ t.cnv.begun = u.usCount ∧ t.cnv.scanPeriod = s.cnv.scanPeriod ∧
      (∀ n, n ≠ channel → channelOf t n = channelOf s n) ∧
      ((code.toNat < k.lo ∨ k.hi < code.toNat) →
        channelOf t channel = ⟨old.value, old.goodTaken, true, 0⟩) ∧
      (k.lo ≤ code.toNat → code.toNat ≤ k.hi →
        (old.faulted = false → channelOf t channel = ⟨value, true, false, old.run⟩) ∧
        (old.faulted = true → old.run < 2 →
          channelOf t channel = ⟨old.value, old.goodTaken, true, old.run + 1⟩) ∧
        (old.faulted = true → old.run = 2 → channelOf t channel = ⟨value, true, false, 0⟩))

/-- R136: THROTTLE_PWM_PERIOD_START; within a period a rise of the demand leaves the THROTTLE line
as it is, and a fall takes it low as soon as the high part has lasted as long as the new duty
allows, a fall to 0 at once.  That a period lasts at least its nominal 5000 µs is the model's choice
(log entry 21). -/
def Obligations.ThrottleLineFallsAtOnceAndRisesWithTheNextPeriod : Prop :=
  (∀ (w : When) (s : State) (start : Count32), s.phase = .running → s.hand = [] →
    s.lio.throttle.periodStart = some start →
    let u := advance w.dt s
    5000 ≤ (u.usCount - start).toNat →
    exec (.throttlePwmPeriodStart w) s =
      .next { u with lio := { u.lio with throttle :=
        ⟨s.lio.throttle.commanded, s.lio.throttle.commanded, some u.usCount⟩ } }) ∧
  ∀ (s : State) (d : Nat), GovSound s → s.gov.d ≤ 1000 →
    (s.gov.d < d → throttleLine (setDemand d s) = throttleLine s) ∧
    (d < s.gov.d → ∀ start, s.lio.throttle.periodStart = some start →
      5 * d ≤ (s.usCount - start).toNat → throttleLine (setDemand d s) = false) ∧
    (d = 0 → throttleLine (setDemand d s) = false)

/-! ### Links -/

/-- R139, R141, R142, R143, section 11.3: SELECT_FALL, with the status word bit by bit and the answer
header: kind, result, and the answer's length in four bits. -/
def Obligations.SelectFallOpensAFrame : Prop :=
  ∀ (w : When) (p : Port) (s : State), s.phase = .running → s.hand = [] →
    let u := advance w.dt s
    let l := portGet s.links p
    let queue := portGet s.ntq p
    let status := wordOfNat (modeCode s.seq.mode + 8 * bit s.lkt.drivePermit +
      16 * bit (queue.queue != []) + 32 * bit l.frameError + 64 * bit s.cfg.storeBusy +
      128 * bit s.cfg.configInvalid + 256 * bit (queue.lost != 0))
    l.selectLow = false →
    ∃ t, exec (.selectFall w p) s = .next t ∧
      t = { u with links := portSet s.links p (portGet t.links p) } ∧
      (l.state = .idle ∨ l.state = .preparing →
        (portGet t.links p).state = .receiving ∧ (portGet t.links p).words = 0 ∧
        (portGet t.links p).header = none ∧ (portGet t.links p).args = [] ∧
        (portGet t.links p).frameError = false ∧
        (portGet t.links p).preparation = l.preparation) ∧
      (l.state = .idle →
        (portGet t.links p).discard = false ∧ (portGet t.links p).answer = none ∧
        (l.answer = none → (portGet t.links p).outgoing = some [status, 0]) ∧
        ∀ a, l.answer = some a → (portGet t.links p).outgoing = some (status ::
          wordOfNat (256 * requestCode a.request + 16 * resultCode a.result +
            a.data.length % 16) :: a.data)) ∧
      (l.state = .preparing →
        (portGet t.links p).discard = true ∧ (portGet t.links p).answer = l.answer ∧
        (portGet t.links p).outgoing = some [status, 0])

/-- R139: WORD_COMPLETION.  That the words are counted to 11 is the model's choice (log
entry 13). -/
def Obligations.WordsAreTakenIn : Prop :=
  ∀ (w : When) (p : Port) (word : Word) (s : State), s.hand = [] →
    let u := advance w.dt s
    let l := portGet s.links p
    l.state = .receiving → LinkSound l →
    ∃ t, exec (.wordCompletion w p word) s = .next t ∧
      t = { u with links := portSet s.links p (portGet t.links p) } ∧
      let l' := portGet t.links p
      l'.words = (if l.words < 11 then l.words + 1 else 11) ∧
      (l.words = 0 → l'.header = some ⟨fieldOf word 8 8, fieldOf word 0 8⟩ ∧ l'.args = []) ∧
      (∀ h, l.header = some h → l'.header = some h ∧
        (l.words ≤ h.count ∧ l.words < 10 → l'.args = l.args ++ [word]) ∧
        (h.count < l.words ∨ 10 ≤ l.words → l'.args = l.args)) ∧
      (10 ≤ l.words → l'.discard = true) ∧ (l.words < 10 → l'.discard = l.discard) ∧
      l'.wordOut = (l.outgoing.getD []).getD l.words 0 ∧ l'.preparation = l.preparation

/-- R139, R140, R143: SELECT_RISE: a frame is handed on exactly when it passes the checks, and sets
FRAME_ERROR otherwise.  That the rise of a READ_NOTICE frame changes the link alone, so that NTQ's queue,
the lost count and the attention line stand until the READ_NOTICE step, is the model's choice (DESIGN
CHOICE, log entry 39), beside R152's "in the event in which LNK hands it on" and section 8.7. -/
def Obligations.SelectRiseHandsOnOrDiscards : Prop :=
  ∀ (w : When) (p : Port) (part : Bool) (s : State), s.hand = [] →
    let u := advance w.dt s
    let l := portGet s.links p
    l.state = .receiving → LinkSound l →
    ∃ t, exec (.selectRise w p part) s = .next t ∧
      t = { u with links := portSet s.links p (portGet t.links p) } ∧
      let l' := portGet t.links p
      (∀ k, (part = false ∧ l.discard = false ∧
          ∃ h, l.header = some h ∧ requestOfCode h.kind = some k ∧ h.count = argumentCount k ∧
            1 + h.count ≤ l.words) →
        l'.state = .preparing ∧ l'.preparation = some (.asked k l.args) ∧
        l.args.length = argumentCount k ∧ l'.frameError = l.frameError) ∧
      ((part = true ∨ l.discard = true ∨ l.words = 0 ∨
          ∀ h, l.header = some h → ∀ k, requestOfCode h.kind = some k →
            h.count ≠ argumentCount k ∨ l.words < 1 + h.count) →
        l'.frameError = true ∧ l'.preparation = l.preparation ∧
        l'.state = (if l.preparation = none then .idle else .preparing)) ∧
      l'.answer = l.answer

/-- R139, R143: ANSWER_COMPLETION. -/
def Obligations.AnswerBecomesPending : Prop :=
  ∀ (w : When) (p : Port) (s : State) (a : Answer), s.hand = [] →
    let u := advance w.dt s
    let l := portGet s.links p
    l.preparation = some (.answered a) →
    exec (.answerCompletion w p) s =
      .next { u with
        links := portSet s.links p
          { l with
            answer := some a, preparation := none
            state := if l.state = .preparing then .idle else l.state } }

/-! ### Reads and notes -/

/-- R147, R165, by the page table of section 11.3: READ_STATUS. -/
def Obligations.ReadStatusShowsAPage : Prop :=
  ∀ (w : When) (p : Port) (s : State) (page : Word), s.phase = .running → s.hand = [] →
    askedOf s p .readStatus = some [page] →
    let u := advance w.dt s
    let shows (data : List Word) : Prop := exec (.readStatus w p) s =
      .next { u with links := answered s p ⟨.readStatus, .ok, data⟩ }
    let at0 (v : Option Int) : Word := wordOfInt (v.getD 0)
    let sum (f : Nat → Nat) : Nat := ((List.range 8).map f).sum
    (page = 0 →
      ∀ request : List Word,
        (s.seq.request = none → request = [0, 0]) →
        (∀ r, s.seq.request = some r → request =
          [wordOfNat (1 + 2 * portCode r.requester + 8 * operationCode r.kind),
            r.taken.setWidth 16]) →
        shows ([wordOfNat
            (modeCode s.seq.mode + 8 * subStageCode s.seq.sub + 32 * reasonCode s.seq.reason)] ++
          request ++
          [wordOfNat (s.lkt.blocks.toNat + 64 * holderCode s.lkt.lock),
            wordOfNat (bit s.seq.ptoShift + 2 * bit s.tnk.tankValve + 4 * bit s.tnk.fillValve +
              8 * bit (s.lio.throttle.commanded != 0) + 16 * bit s.lkt.drivePermit +
              32 * bit s.seq.pumpReady),
            (if s.lio.published then wordOfNat (inputWord s.lio.inputs) else 16),
            wordOfNat s.lio.np])) ∧
    (page = 1 →
      shows [wordOfNat (governingCode s.gov.governing + 4 * watchCode s.gov.watch +
          16 * bit s.gov.faultMark),
        wordOfNat s.gov.sp, wordOfNat s.gov.sn, wordOfNat s.gov.d, wordOfNat s.gov.c,
        wordOfInt s.gov.ePrev]) ∧
    (page = 2 →
      shows [wordOfNat (tankStateCode s.tnk.tank0.state + 8 * tankStateCode s.tnk.tank1.state +
          64 * supplyCode s.tnk.supply + 128 * bit s.tnk.tank0.lf.isNone +
          256 * bit s.tnk.tank0.v.isNone + 512 * bit s.tnk.tank1.lf.isNone +
          1024 * bit s.tnk.tank1.v.isNone),
        at0 s.tnk.tank0.lf, at0 s.tnk.tank0.v, at0 s.tnk.tank1.lf, at0 s.tnk.tank1.v]) ∧
    (page = 3 →
      (s.tnk.fill = none → shows [0, 0, 0, 0, 0]) ∧
      ∀ f, s.tnk.fill = some f →
        shows [wordOfNat (1 + 2 * portCode f.requester + 8 * bit f.suspended),
          wordOfNat f.target, f.start.setWidth 16, wordOfInt f.riseLevel,
          f.riseTime.setWidth 16]) ∧
    (page = 4 →
      ∀ report : List Word,
        (s.spd.report = none → report = [0, 0, 0]) →
        (∀ r, s.spd.report = some r → report =
          [wordOfNat (1 + 2 * transmissionCode r.transmission + 16 * bit r.engine +
              32 * portCode r.sender),
            wordOfNat r.speed, r.arrival.setWidth 16]) →
        shows (report ++
          [wordOfNat (freshnessCode s.spd.freshness + 2 * disagreementCode s.spd.disagreement +
              8 * qualityCode (quality s.spd) + 16 * degradedCause s.spd +
              64 * transmissionCode s.spd.transmission),
            wordOfNat s.spd.measured, wordOfNat s.spd.value])) ∧
    (page = 5 → shows ((List.range 8).map (fun n => wordOfInt (channelOf s n).value))) ∧
    (page = 6 → CnvSound s →
      shows [wordOfNat (sum (fun n => bit (channelOf s n).faulted * 2 ^ n) +
          sum (fun n => bit (channelOf s n).goodTaken * 2 ^ (8 + n))),
        wordOfNat (sum (fun n => (channelOf s n).run * 4 ^ n))]) ∧
    (6 < page.toNat →
      exec (.readStatus w p) s =
        .next { u with links := answered s p ⟨.readStatus, .badArgument, []⟩ })

/-- R68, R159, section 11.3: READ_ROW and READ_CONFIG change no state and answer with eight words: a
row's record, its state, whether its source is faulted, its index and the time left on a hold; an
item, its part and seven values. -/
def Obligations.ReadRowAndReadConfigChangeNothing : Prop :=
  ∀ (w : When) (p : Port) (s : State), s.phase = .running → s.hand = [] →
    let u := advance w.dt s
    (∀ row : Word, askedOf s p .readRow = some [row] →
      (row.toNat < 24 →
        let slot := rowSlot s row.toNat
        let record := rowRecord (conf s) row.toNat
        let left : Word := match slot.state, slot.timer with
          | .holding, some k => wordOfNat (k.length - (u.timeBase - k.start).toNat)
          | _, _ => 0
        exec (.readRow w p) s = .next { u with
          links := answered s p ⟨.readRow, .ok, rowWords record ++
            [wordOfNat (rowStateCode slot.state + 8 * bit (sourceFaulted s record.source) +
              256 * row.toNat), left]⟩ }) ∧
      (24 ≤ row.toNat → exec (.readRow w p) s = .next { u with
        links := answered s p ⟨.readRow, .badArgument, []⟩ })) ∧
    (∀ item part : Word, askedOf s p .readConfig = some [item, part] →
      (part.toNat < partCount item.toNat → exec (.readConfig w p) s = .next { u with
        links := answered s p
          ⟨.readConfig, .ok,
            wordOfNat (256 * item.toNat + part.toNat) ::
              partWords (conf s) item.toNat part.toNat⟩ }) ∧
      (partCount item.toNat ≤ part.toNat → exec (.readConfig w p) s = .next { u with
        links := answered s p ⟨.readConfig, .badArgument, []⟩ }))

/-- R152, R155, R154: READ_NOTICE and READ_RESET_CAUSE.  That READ_NOTICE is taken in a step of
its own and not at the rise is the model's choice (DESIGN CHOICE, log entry 39). -/
def Obligations.ReadNoticeAndReadResetCauseRemoveTheFirst : Prop :=
  ∀ (w : When) (p : Port) (s : State), s.phase = .running → s.hand = [] →
    let u := advance w.dt s
    let q := portGet s.ntq p
    (askedOf s p .readNotice = some [] →
      (q.queue = [] → exec (.readNotice w p) s = .next { u with
          ntq := portSet s.ntq p { q with lost := 0 },
          links := answered s p ⟨.readNotice, .ok, [0, 0, 0, wordOfNat q.lost]⟩ }) ∧
      (∀ n rest, q.queue = n :: rest → exec (.readNotice w p) s = .next { u with
          ntq := portSet s.ntq p { q with queue := rest, lost := 0 },
          links := answered s p ⟨.readNotice, .ok,
            [wordOfNat (256 * noticeCode n.kind + n.subject.toNat), n.value, n.stamp,
              wordOfNat q.lost]⟩ })) ∧
    (askedOf s p .readResetCause = some [] →
      ∃ t data, exec (.readResetCause w p) s = .next t ∧
        t = { u with
          ntq := portSet s.ntq p { q with causes := (portGet t.ntq p).causes },
          links := answered s p ⟨.readResetCause, .ok, [data]⟩ } ∧
        (portGet t.ntq p).causes =
          (if q.causes.supplyStart then { q.causes with supplyStart := false }
            else if q.causes.resetLine then { q.causes with resetLine := false }
            else if q.causes.configDefaulted then { q.causes with configDefaulted := false }
            else { q.causes with ptoFoundEngaged := false }) ∧
        data = (if q.causes.supplyStart then 1 else if q.causes.resetLine then 2
            else if q.causes.configDefaulted then 3 else if q.causes.ptoFoundEngaged then 4 else 0))

/-- R150, R151, R153: a notice joins each queue it is addressed to and alters no other: the port named,
the ports whose subscription mask has the bit of the notice's kind, or both; POST_NOTE from port `p` to
`target`, and its refusal. -/
def Obligations.NoticesAndNotesReachTheAddressedQueues : Prop :=
  (∀ (sender : UnitName) (n : Notice) (dest : Addressee) (s : State) (p : Port),
    let q := portGet s.ntq p
    let mask : Word := portGet (conf s).subscriptions p &&& 0x05FA
    let subscribes : Prop := mask.getLsbD (noticeCode n.kind) = true
    let addressed_ : Prop := match dest with
      | .only q => q = p
      | .subscribers => subscribes
      | .subscribersAnd q => q = p ∨ subscribes
    let t := deliver (.notice sender n dest) s
    (addressed_ → portGet t.ntq p =
      if q.queue.length < 16 then { q with queue := q.queue ++ [n] }
      else { q with lost := min 255 (q.lost + 1) }) ∧
    (¬addressed_ → portGet t.ntq p = q) ∧ t = { s with ntq := t.ntq }) ∧
  (∀ (w : When) (p target : Port) (s : State) (tag value : Word),
    s.phase = .running → s.hand = [] → tag.toNat ≤ 63 →
    askedOf s p .postNote = some [wordOfNat (portCode target), tag, value] →
    let u := advance w.dt s
    let q := portGet s.ntq target
    let note : Notice :=
      ⟨.note, BitVec.ofNat 8 (64 * portCode p + tag.toNat), value, u.timeBase.setWidth 16⟩
    let x : State := { u with links := answered s p ⟨.postNote, .ok, []⟩ }
    exec (.postNote w p) s =
      .next (takeHandovers w { x with hand := [.notice .ntq note (.only target)] }) ∧
    (w.takes = none → exec (.postNote w p) s = .next { x with
      ntq := portSet s.ntq target
        (if q.queue.length < 16 then { q with queue := q.queue ++ [note] }
          else { q with lost := min 255 (q.lost + 1) }) })) ∧
  ∀ (w : When) (p : Port) (s : State) (target tag value : Word),
    s.phase = .running → s.hand = [] → askedOf s p .postNote = some [target, tag, value] →
    (2 < target.toNat ∨ 63 < tag.toNat) →
    let u := advance w.dt s
    exec (.postNote w p) s =
      .next { u with links := answered s p ⟨.postNote, .badArgument, []⟩ }

/-! ### SPD -/

/-- R113, R114, R115, R118 to R121: REPORT_SPEED from the holder of SPEED_SOURCE, with what SPD hands on,
from another port, and with an argument that names no value. -/
def Obligations.SpeedReportsAreJudgedAndTaken : Prop :=
  ∀ (w : When) (p : Port) (s : State) (speed code flag : Word), s.phase = .running →
    askedOf s p .reportSpeed = some [speed, code, flag] →
    let u := advance w.dt s
    let i := (conf s).rates.reportInterval
    let data (x : SpdUnit) : List Word :=
      [wordOfNat x.value,
        wordOfNat (qualityCode (quality x) + 2 * transmissionCode x.transmission)]
    (∀ r : Result, s.hand = [] →
      (portHolds s p .speedSource = false ∧ r = .noRight) ∨
      (portHolds s p .speedSource = true ∧ (4 < code.toNat ∨ 1 < flag.toNat) ∧
        r = .badArgument) →
      exec (.reportSpeed w p) s =
        .next { u with links := answered s p ⟨.reportSpeed, r, data s.spd⟩ }) ∧
    (∀ x, portHolds s p .speedSource = true → transmissionOfCode code.toNat = some x →
      flag.toNat ≤ 1 →
      ∃ t, exec (.reportSpeed w p) s = .next t ∧
        still t = { still u with
          spd := t.spd
          links := answered s p ⟨.reportSpeed, if 1500 < speed.toNat then .clamped else .ok,
            data t.spd⟩ } ∧
        (s.hand = [] → t = takeHandovers w { u with
          spd := t.spd
          links := answered s p ⟨.reportSpeed, if 1500 < speed.toNat then .clamped else .ok,
            data t.spd⟩
          hand := speedHandovers u true s.spd t.spd }) ∧
        t.spd.report = some ⟨min 1500 speed.toNat, x, flag.toNat == 1, u.timeBase, p⟩ ∧
        t.spd.measured = s.spd.measured ∧
        (t.spd.freshness = .fresh ↔ s.spd.freshness = .fresh ∨
          ∃ r, s.spd.report = some r ∧ r.sender = p ∧ (u.timeBase - r.arrival).toNat ≤ i) ∧
        (t.spd.freshness = .fresh →
          let differs :=
            ((conf s).tolerances.speed : Int) < |(min 1500 speed.toNat : Int) - s.spd.measured|
          let held := s.spd.freshness = .fresh ∧ s.spd.disagreement ≠ .agree
          t.spd.staleTimer = some ⟨u.timeBase, 3 * i⟩ ∧
          t.spd.value = max (min 1500 speed.toNat) s.spd.measured ∧ t.spd.transmission = x ∧
          (¬differs → t.spd.disagreement = .agree ∧ t.spd.disTimer = none) ∧
          (differs → ¬held →
            t.spd.disagreement = .differing ∧ t.spd.disTimer = some ⟨u.timeBase, 2000⟩) ∧
          (differs → held →
            t.spd.disagreement = s.spd.disagreement ∧ t.spd.disTimer = s.spd.disTimer)) ∧
        (t.spd.freshness = .stale →
          t.spd.value = s.spd.measured ∧ t.spd.transmission = .unknown ∧
          t.spd.disagreement = s.spd.disagreement ∧ t.spd.disTimer = s.spd.disTimer))

/-- R114, R119, R118, R120, R121: STALE_TIMER_EXPIRY and DISAGREEMENT_TIMER_EXPIRY, with what SPD hands
on. -/
def Obligations.SpeedTimersDegradeTheQuality : Prop :=
  ∀ (w : When) (s : State), s.phase = .running →
    let u := advance w.dt s
    (timerDue u.timeBase s.spd.staleTimer = true →
      ∃ t, exec (.staleTimerExpiry w) s = .next t ∧
        still t = { still u with spd := { s.spd with
          freshness := .stale, staleTimer := none, disagreement := .agree, disTimer := none
          value := s.spd.measured, transmission := .unknown } } ∧
        (s.hand = [] → t = takeHandovers w { u with
          spd := t.spd, hand := speedHandovers u false s.spd t.spd }) ∧
        quality t.spd = .degraded ∧ degradedCause t.spd = 1) ∧
    (SpdSound s.spd → s.spd.disagreement = .differing →
      timerDue u.timeBase s.spd.disTimer = true →
      ∃ t, exec (.disagreementTimerExpiry w) s = .next t ∧
        still t = { still u with spd := { s.spd with
          disagreement := .disagree, disTimer := none } } ∧
        (s.hand = [] → t = takeHandovers w { u with
          spd := t.spd, hand := speedHandovers u false s.spd t.spd }) ∧
        quality t.spd = .degraded ∧ degradedCause t.spd = 2)

/-! ### SEQ -/

/-- R28, R31, R9, R10: an ENGAGE in PARKED with no PTO block starts the shift-in, which completes at
once if the feedback is set already, with what SEQ posts and hands on. -/
def Obligations.EngageInParkedStartsTheShift : Prop :=
  ∀ (w : When) (p : Port) (s : State), s.phase = .running → s.hand = [] →
    askedOf s p .requestMode = some [0] → portRank s p ≠ 0 → s.cfg.storeBusy = false →
    s.seq.mode = .parked → holdsBlock s.seq.blocks .pto = false →
    let u := advance w.dt s
    let links := answered s p ⟨.requestMode, .taken, []⟩
    (feedback s = false → exec (.engage w p) s =
      .next (takeHandovers w { shiftingOutcome p u with links := links })) ∧
    (feedback s = true → exec (.engage w p) s =
      .next (takeHandovers w { engagedOutcome p u with links := links })) ∧
    (Unblocked s → ∃ t, exec (.engage w p) s = .next t ∧
      still t = { still u with links := links } ∧
      t.seq.ptoShift = true ∧ t.seq.sub = none ∧
      (feedback s = false →
        t.seq.mode = .shiftingIn ∧ t.seq.reason = .request ∧
        t.seq.request = some ⟨p, .engage, u.timeBase⟩ ∧
        t.seq.shiftTimer = some ⟨u.timeBase, (conf s).timing.shift⟩ ∧
        t.seq.pumpReady = false) ∧
      (feedback s = true →
        t.seq.mode = .pump ∧ t.seq.reason = .condition ∧ t.seq.request = none ∧
        t.seq.shiftTimer = none))

/-- R31, R32: an ENGAGE elsewhere is answered by the store, the mode and the block set, and in
SHIFTING_IN a higher rank takes the request over; nothing else of SEQ changes.  R28: its refusals
before SEQ sees it.  That a request whose kind is none is answered by whichever row takes it, and that
a row takes no request of another's kind, is the model's choice (log entry 14). -/
def Obligations.EngageElsewhereIsAnsweredByTheMode : Prop :=
  (∀ (w : When) (p : Port) (s : State), s.phase = .running → s.hand = [] →
    askedOf s p .requestMode = some [0] → portRank s p ≠ 0 →
    let u := advance w.dt s
    (∀ r : Result,
      (s.cfg.storeBusy = true ∧ r = .busy) ∨
      (s.cfg.storeBusy = false ∧
        ((s.seq.mode = .init ∧ r = .condition) ∨ (s.seq.mode = .stuck ∧ r = .condition) ∨
         (s.seq.mode = .road ∧ holdsBlock s.seq.blocks .pto = true ∧ r = .blocked) ∨
         (s.seq.mode = .road ∧ holdsBlock s.seq.blocks .pto = false ∧ r = .condition) ∨
         (s.seq.mode = .parked ∧ holdsBlock s.seq.blocks .pto = true ∧ r = .blocked) ∨
         (s.seq.mode = .pump ∧ r = .ok) ∨ (s.seq.mode = .roll ∧ r = .ok) ∨
         (s.seq.mode = .disengaging ∧ r = .busy) ∨
         (s.seq.mode = .shiftingIn ∧ r = .busy ∧ ∃ q, s.seq.request = some q ∧
           portRank s p ≤ portRank s q.requester))) →
      exec (.engage w p) s =
        .next { u with links := answered s p ⟨.requestMode, r, []⟩ }) ∧
    (∀ q, s.cfg.storeBusy = false → s.seq.mode = .shiftingIn → s.seq.request = some q →
      q.kind = .engage → portRank s q.requester < portRank s p →
      let outcome : Notice :=
        ⟨.requestOutcome, 0, wordOfNat (256 * portCode p + 1), u.timeBase.setWidth 16⟩
      let x : State := { u with
        seq := { s.seq with request := some ⟨p, .engage, u.timeBase⟩ }
        links := answered s p ⟨.requestMode, .taken, []⟩ }
      exec (.engage w p) s = .next (takeHandovers w
        { x with hand := [.notice .seq outcome (.only q.requester)] }) ∧
      (w.takes = none → exec (.engage w p) s = .next { x with
        ntq := portSet s.ntq q.requester (enqueue outcome (portGet s.ntq q.requester)) }))) ∧
  ∀ (w : When) (p : Port) (s : State) (kind : Word), s.phase = .running → s.hand = [] →
    askedOf s p .requestMode = some [kind] →
    let u := advance w.dt s
    (∀ r : Result,
      (kind = 0 ∨ 3 < kind.toNat) ∧ portRank s p = 0 ∧ r = .noRight ∨
      3 < kind.toNat ∧ portRank s p ≠ 0 ∧ r = .badArgument →
      exec (.engage w p) s = .next { u with links := answered s p ⟨.requestMode, r, []⟩ }) ∧
    (kind ≠ 0 → kind.toNat ≤ 3 → exec (.engage w p) s = .next u)

/-- R28, R35, R36, R14, R15, R24: ROLL and STOP_ROLL, accepted, with what SEQ posts and hands on, and
refused, a ROLL also with the hand-overs of a row's change under way (R35).  That ROLL reads LKT's block set is DEDUCED (log
entry 28).  Which row answers a request whose kind is none is the model's choice (log entry 14). -/
def Obligations.RollAndStopRollChangeTheMode : Prop :=
  (∀ (w : When) (p : Port) (s : State), s.phase = .running → s.hand = [] →
    portRank s p ≠ 0 → portHolds s p .roll = true →
    let u := advance w.dt s
    let fit := quality s.spd = .good ∧ (conf s).fillItems.rollEnabled = true ∧
      (s.spd.transmission = .neutral ∨ s.spd.transmission = .lowRange)
    let atRest := s.seq.mode = .roll ∧ s.spd.value = 0 ∧ secured s = true
    let links := answered s p ⟨.requestMode, .ok, []⟩
    let taken (c : Instr) (m : Mode) : Prop :=
      (holdsBlock s.seq.blocks .pto = false →
        exec c s = .next (takeHandovers w { rolledOutcome m u with links := links })) ∧
      (holdsBlock s.seq.blocks .pto = true →
        exec c s = .next (takeHandovers w
          { spinDownOutcome (rolledOutcome m u) .block s.seq.request with links := links }))
    (askedOf s p .requestMode = some [1] →
      (s.seq.mode = .pump → holdsBlock s.lkt.blocks .roll = false → fit →
        taken (.roll w p) .roll ∧
        (holdsBlock s.seq.blocks .pto = false → Unblocked s →
          ∃ t, exec (.roll w p) s = .next t ∧
            still t = { still u with links := links } ∧
            t.seq.mode = .roll ∧ t.seq.reason = .request ∧ t.seq.ptoShift = true ∧
            t.seq.pumpReady = false ∧ t.seq.request = s.seq.request)) ∧
      (∀ r : Result,
        (s.seq.mode ≠ .pump ∧ r = .condition) ∨
        (s.seq.mode = .pump ∧ holdsBlock s.lkt.blocks .roll = true ∧ r = .blocked) ∨
        (s.seq.mode = .pump ∧ holdsBlock s.lkt.blocks .roll = false ∧ ¬fit ∧ r = .condition) →
        exec (.roll w p) s =
          .next { u with links := answered s p ⟨.requestMode, r, []⟩ })) ∧
    (askedOf s p .requestMode = some [2] →
      (atRest →
        taken (.stopRoll w p) .pump ∧
        (holdsBlock s.seq.blocks .pto = false → Unblocked s →
          ∃ t, exec (.stopRoll w p) s = .next t ∧
            still t = { still u with links := links } ∧
            t.seq.mode = .pump ∧ t.seq.reason = .request ∧ t.seq.ptoShift = true ∧
            t.seq.pumpReady = !holdsBlock t.seq.blocks .throttle ∧
            t.seq.request = s.seq.request)) ∧
      (¬atRest → exec (.stopRoll w p) s =
        .next { u with links := answered s p ⟨.requestMode, .condition, []⟩ }))) ∧
  (∀ (w : When) (p : Port) (s : State) (r : Result), s.phase = .running → w.dt = 0 →
    portRank s p ≠ 0 → portHolds s p .roll = true → askedOf s p .requestMode = some [1] →
    s.seq.mode = .pump →
    (holdsBlock s.lkt.blocks .roll = true ∧ r = .blocked) ∨
      (holdsBlock s.lkt.blocks .roll = false ∧ quality s.spd ≠ .good ∧ r = .condition) →
    exec (.roll w p) s = .next (takeHandovers w { advance 0 s with
      links := answered s p ⟨.requestMode, r, []⟩ })) ∧
  ∀ (w : When) (p : Port) (s : State) (kind : Word) (r : Result), s.phase = .running →
    s.hand = [] → askedOf s p .requestMode = some [kind] →
    let u := advance w.dt s
    let answeredBy (c : Instr) : Prop :=
      exec c s = .next { u with links := answered s p ⟨.requestMode, r, []⟩ }
    let refused (own : Word) : Prop :=
      ((kind = own ∨ 3 < kind.toNat) ∧ portRank s p = 0 ∧ r = .noRight) ∨
      (3 < kind.toNat ∧ portRank s p ≠ 0 ∧ r = .badArgument) ∨
      (kind = own ∧ portRank s p ≠ 0 ∧ portHolds s p .roll = false ∧ r = .noRight)
    (refused 1 → answeredBy (.roll w p)) ∧ (refused 2 → answeredBy (.stopRoll w p)) ∧
    (kind ≠ 1 → kind.toNat ≤ 3 → exec (.roll w p) s = .next u) ∧
    (kind ≠ 2 → kind.toNat ≤ 3 → exec (.stopRoll w p) s = .next u)

/-- R28, R33, R13, R16, R17, R20, R21, R34, R37: DISENGAGE in every mode, with what it posts, and its
refusals before SEQ sees it.  Which row answers a request whose kind is none is the model's choice
(log entry 14). -/
def Obligations.DisengageReleasesThePto : Prop :=
  (∀ (w : When) (p : Port) (s : State), s.phase = .running → s.hand = [] →
    askedOf s p .requestMode = some [3] → portRank s p ≠ 0 →
    let u := advance w.dt s
    let links := answered s p ⟨.requestMode, .taken, []⟩
    let mine : OpenRequest := ⟨p, .disengage, u.timeBase⟩
    (s.seq.mode = .init ∨ s.seq.mode = .road ∨ s.seq.mode = .parked ∨ s.seq.mode = .stuck →
      exec (.disengage w p) s =
        .next { u with links := answered s p ⟨.requestMode, .ok, []⟩ }) ∧
    (s.seq.mode = .pump ∨ s.seq.mode = .roll →
      exec (.disengage w p) s = .next (takeHandovers w
        { spinDownOutcome u .request (some mine) with links := links }) ∧
      ((conf s).timing.disengageSpeed < s.lio.np →
        ∃ t, exec (.disengage w p) s = .next t ∧
          still t = { still u with links := links } ∧
          t.seq.mode = .disengaging ∧ t.seq.sub = some .spinDown ∧ t.seq.reason = .request ∧
          t.seq.request = some mine ∧ t.seq.ptoShift = true ∧ t.seq.pumpReady = false) ∧
      (s.lio.np ≤ (conf s).timing.disengageSpeed →
        ∃ t, exec (.disengage w p) s = .next t ∧ t.seq.ptoShift = false ∧
          (feedback s = true →
            t.seq.mode = .disengaging ∧ t.seq.sub = some .release ∧ t.seq.reason = .condition ∧
            t.seq.request = some mine ∧
            t.seq.releaseTimer = some ⟨u.timeBase, (conf s).timing.release⟩) ∧
          (feedback s = false →
            t.seq.mode = derivedMode s ∧ t.seq.sub = none ∧ t.seq.request = none))) ∧
    (s.seq.mode = .shiftingIn →
      exec (.disengage w p) s = .next (takeHandovers w
        { releaseOutcome u .request (some mine)
            (outcomeNotices u s.seq.request .superseded (portCode p)) [] with links := links }) ∧
      ∃ t, exec (.disengage w p) s = .next t ∧
        still t = { still u with links := links } ∧
        t.seq.ptoShift = false ∧ t.seq.pumpReady = false ∧ t.seq.shiftTimer = none ∧
        (feedback s = true →
          t.seq.mode = .disengaging ∧ t.seq.sub = some .release ∧ t.seq.request = some mine ∧
          t.seq.releaseTimer = some ⟨u.timeBase, (conf s).timing.release⟩) ∧
        (feedback s = false →
          t.seq.mode = derivedMode s ∧ t.seq.sub = none ∧ t.seq.request = none ∧
          t.seq.releaseTimer = none)) ∧
    (s.seq.mode = .disengaging →
      ((∀ r, s.seq.request = some r → r.requester ≠ p) →
        exec (.disengage w p) s = .next (takeHandovers w { u with
          seq := { s.seq with request := some mine }, links := links
          hand := outcomeNotices u s.seq.request .superseded (portCode p) })) ∧
      (∀ r, s.seq.request = some r → r.requester = p →
        exec (.disengage w p) s = .next { u with links := links }))) ∧
  ∀ (w : When) (p : Port) (s : State) (kind : Word), s.phase = .running → s.hand = [] →
    askedOf s p .requestMode = some [kind] →
    let u := advance w.dt s
    (∀ r : Result,
      (kind = 3 ∨ 3 < kind.toNat) ∧ portRank s p = 0 ∧ r = .noRight ∨
      3 < kind.toNat ∧ portRank s p ≠ 0 ∧ r = .badArgument →
      exec (.disengage w p) s = .next { u with links := answered s p ⟨.requestMode, r, []⟩ }) ∧
    (kind.toNat < 3 → exec (.disengage w p) s = .next u)

/-- R12, R18, R20, R21, R22, R32, R37: SHIFT_TIMER_EXPIRY and SPIN_DOWN_LIMIT_EXPIRY, whatever the
feedback, and RELEASE_TIMER_EXPIRY with the feedback still set, with what each posts; the feedback is
still set too where the word that clears it has reached SEQ together with the expiry and is taken after
it.  After an expiry of the shift timer with the feedback clear the release completes in the same step,
but an ENGAGE at the same moment that is taken before its end finds DISENGAGING and is answered BUSY:
the model's reading of R20 and R21 with R32 (DEDUCED, log entry 35). -/
def Obligations.SequencerTimersRunOut : Prop :=
  (∀ (w : When) (s : State), s.phase = .running → s.hand = [] → s.seq.mode = .shiftingIn →
    let u := advance w.dt s
    timerDue u.timeBase s.seq.shiftTimer = true →
    exec (.shiftTimerExpiry w) s = .next (takeHandovers w { u with
      seq := releasingSeq u .timeout none
      hand := modeNotice u .timeout .disengaging (some .release) .shiftingIn s.seq.sub ::
        modeHandovers .disengaging ++ outcomeNotices u s.seq.request .timedOut 0 ++
          if feedback s then [] else [.releaseToSeq] }) ∧
    ∃ t, exec (.shiftTimerExpiry w) s = .next t ∧
      still t = still u ∧
      t.seq.shiftTimer = none ∧ t.seq.request = none ∧ t.seq.ptoShift = false ∧
      t.seq.pumpReady = false ∧
      (feedback s = true →
        t.seq.mode = .disengaging ∧ t.seq.sub = some .release ∧ t.seq.reason = .timeout ∧
        t.seq.releaseTimer = some ⟨u.timeBase, (conf s).timing.release⟩) ∧
      (feedback s = false → w.takes = none →
        t.seq.mode = derivedMode s ∧ t.seq.sub = none ∧ t.seq.reason = .condition ∧
        t.seq.releaseTimer = none)) ∧
  (∀ s : State,
    let t := deliver .releaseToSeq s
    let waits := s.seq.mode = .disengaging ∧ s.seq.sub = some .release ∧ feedback s = false
    (waits → t = { s with
      seq := restingSeq s
      hand := s.hand ++ modeNotice s .condition (derivedMode s) none .disengaging (some .release) ::
        modeHandovers (derivedMode s) ++ outcomeNotices s s.seq.request .completed 0 }) ∧
    (¬waits → t = s)) ∧
  (∀ (w : When) (p : Port) (s : State), s.phase = .running → w.dt = 0 →
    s.seq.mode = .disengaging → askedOf s p .requestMode = some [0] → portRank s p ≠ 0 →
    exec (.engage w p) s = .next (takeHandovers w
      { advance 0 s with links := answered s p ⟨.requestMode, .busy, []⟩ })) ∧
  (∀ (w : When) (s : State), s.phase = .running → s.hand = [] → s.seq.mode = .disengaging →
    let u := advance w.dt s
    s.seq.sub = some .spinDown → timerDue u.timeBase s.seq.spinLimit = true →
      exec (.spinDownLimitExpiry w) s =
        .next (takeHandovers w (releaseOutcome u .timeout s.seq.request [] []))) ∧
  ∀ (w : When) (s : State), s.phase = .running → s.seq.mode = .disengaging →
    s.seq.sub = some .release →
    let u := advance w.dt s
    timerDue u.timeBase s.seq.releaseTimer = true →
    ((s.hand = [] ∧ feedback s = true) ∨
      (w.dt = 0 ∧ ∃ word, .wordToSeq word ∈ s.hand ∧ wordFeedback word = false)) →
      exec (.releaseTimerExpiry w) s = .next (takeHandovers w { u with
        seq := { s.seq with
          mode := .stuck, sub := none, reason := .timeout, request := none, startWait := none
          shiftTimer := none, spinLimit := none, releaseTimer := none, ptoShift := false
          pumpReady := false }
        hand := s.hand ++ modeNotice u .timeout .stuck none .disengaging (some .release) ::
          modeHandovers .stuck ++ outcomeNotices u s.seq.request .failed 0 })

/-! ### GOV -/

/-- R85, R86, R87: SET_GOVERNOR changes the governing mode, the setpoints and e_prev alone. -/
def Obligations.SetGovernorSetsTheRecord : Prop :=
  ∀ (w : When) (p : Port) (s : State) (m sp sn : Word), s.phase = .running → s.hand = [] →
    askedOf s p .setGovernor = some [m, sp, sn] →
    let u := advance w.dt s
    let data (g : GovUnit) : List Word :=
      [wordOfNat (governingCode g.governing), wordOfNat g.sp, wordOfNat g.sn]
    let point (lo hi old : Nat) (arg : Word) : Nat :=
      if arg = 0 then old else min hi (max lo arg.toNat)
    let clamped := (sp ≠ 0 ∧ (sp.toNat < 200 ∨ 2400 < sp.toNat)) ∨
      (sn ≠ 0 ∧ (sn.toNat < 600 ∨ 3000 < sn.toNat))
    (∀ r : Result,
      (portHolds s p .govern = false ∧ r = .noRight) ∨
      (portHolds s p .govern = true ∧ 2 < m.toNat ∧ r = .badArgument) ∨
      (portHolds s p .govern = true ∧ m = 1 ∧ s.gov.faultMark = true ∧ r = .faulted) →
      exec (.setGovernor w p) s =
        .next { u with links := answered s p ⟨.setGovernor, r, data s.gov⟩ }) ∧
    (portHolds s p .govern = true → m.toNat ≤ 2 → ¬(m = 1 ∧ s.gov.faultMark = true) →
      ∃ t r, exec (.setGovernor w p) s = .next t ∧
        t = { u with
          gov := { s.gov with
            governing := t.gov.governing, ePrev := t.gov.ePrev
            sp := point 200 2400 s.gov.sp sp, sn := point 600 3000 s.gov.sn sn }
          links := answered s p ⟨.setGovernor, r, data t.gov⟩ } ∧
        (r = .clamped ↔ clamped) ∧ (r = .ok ↔ ¬clamped) ∧
        t.gov.governing =
          (if m = 1 then .pressure else if m = 2 then .speed else s.gov.governing) ∧
        t.gov.ePrev = if t.gov.governing = s.gov.governing then s.gov.ePrev else 0)

/-- R72, R75, R76, R77, R80: the law of one update, for a channel 0 arrival that finds no fallback to
make (R83 gives the other, in the statement on the fallback), and its bounds: D rises by at most R and
stays within its ceiling; while the intake watch is LOW it becomes D − R, or 0, or C_cfg if that is
lower still.  R78: what GOV does with a block set. -/
def Obligations.UpdatesAreSlewLimitedAndRamped : Prop :=
  (∀ (s : State) (pd : Int) (faulted : Bool), pumping s.gov.mode = true →
    let t := deliver (.dischargeToGov pd faulted) s
    let g := (conf s).gains
    (faulted = false ∨ s.gov.governing = .speed →
      let pressure := s.gov.governing = .pressure
      let e : Int := max (-1000) (min 1000
        (if pressure then s.gov.sp - pd else s.gov.sn - s.lio.np))
      let sum : Int := (if pressure then g.kpPressure else g.kpSpeed) * (e - s.gov.ePrev) +
        (if pressure then g.kiPressure else g.kiSpeed) * e
      let intake := if s.gov.watch = .low then s.gov.d - g.slew else s.gov.cIntake
      let ceiling := if holdsBlock s.gov.blocks .throttle then 0 else min g.ceiling intake
      ∃ q : Int, 2 * |256 * q - sum| ≤ 256 ∧
        (2 * |256 * q - sum| = 256 → |sum| < |256 * q|) ∧
        (t.gov.d : Int) =
          max 0 (min (ceiling : Int) (s.gov.d + max (-(g.slew : Int)) (min g.slew q))) ∧
        t.gov.ePrev = e ∧ t.gov.c = ceiling ∧ t.gov.cIntake = intake ∧
        t.gov.sp = s.gov.sp ∧ t.gov.sn = s.gov.sn ∧ t.gov.governing = s.gov.governing ∧
        t.gov.watch = s.gov.watch ∧
        t.hand = s.hand ++
          if t.gov.d = s.gov.d then [] else [.arrival .gov .throttleDemand (some t.gov.d)]) ∧
    t.gov.d ≤ s.gov.d + g.slew ∧ t.gov.d ≤ t.gov.c ∧ t.gov.c ≤ g.ceiling ∧
    -1000 ≤ t.gov.ePrev ∧ t.gov.ePrev ≤ 1000 ∧
    (holdsBlock s.gov.blocks .throttle = true → t.gov.d = 0) ∧
    (s.gov.watch = .low → holdsBlock s.gov.blocks .throttle = false →
      t.gov.d = min (s.gov.d - g.slew) g.ceiling)) ∧
  ∀ (s : State) (b : BlockSet),
    let t := deliver (.blocksToGov b) s
    let seen : GovUnit := { s.gov with blocks := b }
    let held := holdsBlock s.gov.blocks .throttle
    let holds := holdsBlock b .throttle
    let least := min (conf s).gains.ceiling s.gov.cIntake
    (held = false → holds = true → Governed s t { seen with c := 0, d := 0 } [] []) ∧
    (held = true → holds = false →
      Governed s t { seen with c := least, d := min s.gov.d least } [] [] ∧
      (GovSound s → t.gov.d = s.gov.d)) ∧
    (holds = held → t = { s with gov := seen })

/-- R83, R84, R71: a channel 0 arrival sets the discharge fault mark or clears it.  A faulted one in
PRESSURE falls back to SPEED at the present pump speed and posts FALLBACK, and in PUMP or ROLL with N_p
in 600..3000 the update of the same arrival leaves D as it is under its ceiling (R75); any other outside
PUMP and ROLL changes nothing more. -/
def Obligations.FallbackIsWithoutAStep : Prop :=
  (∀ (s : State) (pd : Int), s.gov.governing = .pressure →
    let t := deliver (.dischargeToGov pd true) s
    let n := min 3000 (max 600 s.lio.np)
    t.gov.governing = .speed ∧ t.gov.faultMark = true ∧
    t.gov.sn = n ∧ t.gov.sp = s.gov.sp ∧
    t.hand = s.hand ++ notice s .gov .governor 0 (wordOfInt n) .subscribers ::
      (if t.gov.d = s.gov.d then [] else [.arrival .gov .throttleDemand (some t.gov.d)]) ∧
    (pumping s.gov.mode = false → t.gov = { s.gov with
      governing := .speed, faultMark := true, sn := n, ePrev := 0 }) ∧
    (pumping s.gov.mode = true → 600 ≤ s.lio.np → s.lio.np ≤ 3000 → s.gov.watch ≠ .low →
      s.gov.d ≤ (conf s).gains.ceiling → s.gov.d ≤ s.gov.cIntake →
      holdsBlock s.gov.blocks .throttle = false → t.gov.d = s.gov.d ∧ t.gov.ePrev = 0)) ∧
  ∀ (s : State) (pd : Int) (faulted : Bool),
    let t := deliver (.dischargeToGov pd faulted) s
    t.gov.faultMark = faulted ∧
    (faulted = false ∨ s.gov.governing = .speed → pumping s.gov.mode = false →
      t = { s with gov := { s.gov with faultMark := faulted } })

/-! ### TNK -/

/-- R101, R102, R108: SELECT_SUPPLY, with what TNK hands on and what becomes of an open fill's stall
check.  R80, R81, R82: the intake watch at an intake arrival in each of its four states.  R73, R71,
R81: the governor record at a change of mode and at a change of supply, with what GOV posts and hands
on. -/
def Obligations.SelectSupplyAndTheIntakeWatch : Prop :=
  (∀ (w : When) (p : Port) (s : State) (arg : Word), s.phase = .running →
    askedOf s p .selectSupply = some [arg] →
    let u := advance w.dt s
    (∀ x, portHolds s p .tank = true → supplyOfCode arg.toNat = some x →
      ∃ t, exec (.selectSupply w p) s = .next t ∧
        still t = { still u with links := answered s p ⟨.selectSupply, .ok, []⟩ } ∧
        t.tnk.supply = x ∧
        (x = s.tnk.supply → s.hand = [] →
          t = { u with links := answered s p ⟨.selectSupply, .ok, []⟩ }) ∧
        (TnkSound s → t.tnk.tankValve = tankValveFor x t.tnk.mode t.tnk.blocks) ∧
        (x ≠ s.tnk.supply → s.hand = [] → ∃ fill : Option Fill,
          t = takeHandovers w { u with
            tnk := { s.tnk with
              supply := x, fill := fill
              tankValve := x == .tank && pumping s.tnk.mode && !holdsBlock s.tnk.blocks .draw }
            links := answered s p ⟨.selectSupply, .ok, []⟩
            hand := [.arrival .tnk .supply (some (supplyCode x)), .supplyToGov x] } ∧
          (s.tnk.fill = none → fill = none) ∧
          ∀ f, s.tnk.fill = some f →
            let suspended := x == .tank && s.tnk.mode == .pump
            (f.suspended = suspended → fill = some f) ∧
            (f.suspended = false → suspended = true →
              fill = some { f with suspended := true, stall := none }) ∧
            (f.suspended = true → suspended = false →
              fill = some { f with
                suspended := false, riseLevel := s.tnk.tank0.lf.getD 0, riseTime := u.timeBase
                stall := some ⟨u.timeBase, (conf s).fillItems.stallSec * 1000⟩ }))) ∧
    (∀ r : Result, s.hand = [] →
      (portHolds s p .tank = false ∧ r = .noRight) ∨
      (portHolds s p .tank = true ∧ 1 < arg.toNat ∧ r = .badArgument) →
      exec (.selectSupply w p) s =
        .next { u with links := answered s p ⟨.selectSupply, r, []⟩ })) ∧
  (∀ (v : Int) (faulted : Bool) (s : State),
    let t := deliver (.intakeToGov v faulted) s
    let floor := (conf s).govDefaults.floor
    let clear := floor + (conf s).govDefaults.hysteresis
    let seen : GovUnit := { s.gov with lastIntake := v }
    let ceiling := if holdsBlock s.gov.blocks .throttle then 0 else (conf s).gains.ceiling
    let posted (subject : Nat) : Handover :=
      notice s .gov .governor subject (wordOfInt v) .subscribers
    let unmoved := t = { s with gov := seen }
    let low := t = { s with
      gov := { seen with watch := .low }, hand := s.hand ++ [posted 1] }
    let freed (x : IntakeWatch) (subject : Nat) : Prop :=
      Governed s t { seen with
        watch := x, cIntake := (conf s).gains.ceiling, c := ceiling, d := min s.gov.d ceiling }
        [posted subject] []
    (s.gov.watch = .off → unmoved) ∧
    (s.gov.watch = .watching →
      (faulted = true → freed .suspended 3) ∧ (faulted = false → v < floor → low) ∧
      (faulted = false → floor ≤ v → unmoved)) ∧
    (s.gov.watch = .low →
      (faulted = true → freed .suspended 3) ∧ (faulted = false → v < clear → unmoved) ∧
      (faulted = false → clear ≤ v → freed .watching 2)) ∧
    (s.gov.watch = .suspended →
      (faulted = true → unmoved) ∧ (faulted = false → v < floor → low) ∧
      (faulted = false → floor ≤ v → t = { s with
        gov := { seen with watch := .watching }, hand := s.hand ++ [posted 2] }))) ∧
  ∀ s : State,
    let cCfg := (conf s).gains.ceiling
    let ceiling := if holdsBlock s.gov.blocks .throttle then 0 else cCfg
    let clear : List Handover := if s.gov.watch = .low then
      [notice s .gov .governor 2 (wordOfInt s.gov.lastIntake) .subscribers] else []
    let on : IntakeWatch := if s.gov.watch = .off then .watching else s.gov.watch
    (∀ m : Mode,
      let t := deliver (.modeToGov m) s
      let entered : GovUnit := { s.gov with
        mode := m, d := 0, ePrev := 0, cIntake := cCfg, c := ceiling }
      (s.gov.mode = .shiftingIn → m = .pump →
        (s.gov.supply = .external → Governed s t { entered with watch := on } [] []) ∧
        (s.gov.supply = .tank → Governed s t { entered with watch := .off } [] clear)) ∧
      (pumping s.gov.mode = true → pumping m = false →
        Governed s t { entered with watch := .off } [] clear) ∧
      (¬(s.gov.mode = .shiftingIn ∧ m = .pump) →
        ¬(pumping s.gov.mode = true ∧ pumping m = false) →
        t = { s with gov := { s.gov with mode := m } })) ∧
    ∀ x : Supply,
      let t := deliver (.supplyToGov x) s
      let seen : GovUnit := { s.gov with supply := x }
      let protected_ := pumping s.gov.mode = true ∧ x = .external
      (protected_ → t = { s with gov := { seen with watch := on } }) ∧
      (¬protected_ → s.gov.watch = .off → t = { s with gov := seen }) ∧
      (¬protected_ → s.gov.watch ≠ .off → Governed s t { seen with
        watch := .off, cIntake := cCfg, c := ceiling, d := min s.gov.d ceiling } clear [])

/-- R103, R104, R105, R108: FILL_START, taken, with the arrival of FILL_ACTIVE that it hands to LKT, and
refused, before tank 0's first level too. -/
def Obligations.FillStartOpensAFill : Prop :=
  ∀ (w : When) (p : Port) (s : State) (arg : Word), s.phase = .running → s.hand = [] →
    askedOf s p .fillStart = some [arg] →
    let u := advance w.dt s
    let full := (conf s).tank0.full
    let target := min arg.toNat full
    let suspended := stallSuspended s.tnk.supply s.tnk.mode
    let held := portHolds s p .tank = true
    let free := s.tnk.fill = none
    let open_ := holdsBlock s.tnk.blocks .fill = false
    let inMode := s.tnk.mode = .parked ∨ s.tnk.mode = .pump
    let known := s.tnk.tank0.state ≠ .unknown ∧ s.tnk.tank0.state ≠ .full
    let links (v : Int) := answered s p ⟨.fillStart,
      if full < arg.toNat then .clamped else .taken, [wordOfNat target, wordOfInt v]⟩
    let fill (lf : Int) : Fill :=
      { requester := p, target := target, start := u.timeBase, riseLevel := lf
        riseTime := u.timeBase
        timeout := ⟨u.timeBase, (conf s).fillItems.timeoutMin * 60000⟩
        stall := if suspended then none
          else some ⟨u.timeBase, (conf s).fillItems.stallSec * 1000⟩
        suspended := suspended }
    (∀ v lf : Int, s.tnk.tank0.v = some v → s.tnk.tank0.lf = some lf →
      held → free → open_ → inMode → known → v < target →
      exec (.fillStart w p) s = .next (takeHandovers w { u with
        tnk := { s.tnk with fillValve := true, fill := some (fill lf) }, links := links v
        hand := [.arrival .tnk .fillActive (some 1)] }) ∧
      (Unblocked s → ∃ t, exec (.fillStart w p) s = .next t ∧
        still t = { still u with links := links v } ∧
        t.tnk = { s.tnk with
          tankValve := t.tnk.tankValve, blocks := t.tnk.blocks, fillValve := true
          fill := some (fill lf) })) ∧
    (∀ r : Result,
      (¬held ∧ r = .noRight) ∨ (held ∧ ¬free ∧ r = .busy) ∨
      (held ∧ free ∧ ¬open_ ∧ r = .blocked) ∨
      (held ∧ free ∧ open_ ∧ 
        (¬inMode ∨ ¬known ∨ ∃ v : Int, s.tnk.tank0.v = some v ∧ target ≤ v) ∧ r = .condition) →
      exec (.fillStart w p) s =
        .next { u with links := answered s p ⟨.fillStart, r, []⟩ })

/-- R105, R109, R110: FILL_STOP, FILL_TIMEOUT_EXPIRY and STALL_WINDOW_EXPIRY end an open fill, each with
its reason and FILL_STOP with the stopping port, and leave the tanks as they are; what the ending of a
fill hands on, to NTQ and to LKT.  R106, R107, R108, R109: what a recomputation of tank 0 does to an
open fill, and what it hands on before the ending checks (R92, R100).  R102, R108, R109: what TNK does with a mode and with a block set, with a fill open or
without. -/
def Obligations.FillsEndByStopAndTimers : Prop :=
  (∀ (w : When) (p : Port) (s : State) (f : Fill), s.phase = .running → s.hand = [] →
    s.tnk.fill = some f →
    let u := advance w.dt s
    let ended (t : State) : Prop := t.tnk.fill = none ∧ t.tnk.fillValve = false ∧
      t.tnk.tank0 = s.tnk.tank0 ∧ t.tnk.tank1 = s.tnk.tank1 ∧ t.tnk.supply = s.tnk.supply
    let ending (why : FillEnding) (stopper : Nat) : State := { u with
      tnk := { s.tnk with fill := none, fillValve := false }
      hand := endingHandovers u f why stopper }
    (askedOf s p .fillStop = some [] → portHolds s p .tank = true →
      exec (.fillStop w p) s = .next (takeHandovers w
        { ending .stopped (portCode p) with links := answered s p ⟨.fillStop, .ok, []⟩ }) ∧
      ∃ t, exec (.fillStop w p) s = .next t ∧
        still t = { still u with links := answered s p ⟨.fillStop, .ok, []⟩ } ∧ ended t) ∧
    (timerDue u.timeBase (some f.timeout) = true →
      exec (.fillTimeoutExpiry w) s = .next (takeHandovers w (ending .timedOut 0)) ∧
      ∃ t, exec (.fillTimeoutExpiry w) s = .next t ∧ still t = still u ∧ ended t) ∧
    (timerDue u.timeBase f.stall = true →
      exec (.stallWindowExpiry w) s = .next (takeHandovers w (ending .stalled 0)) ∧
      ∃ t, exec (.stallWindowExpiry w) s = .next t ∧ still t = still u ∧ ended t)) ∧
  (∀ (w : When) (p : Port) (s : State), s.phase = .running → s.hand = [] →
    askedOf s p .fillStop = some [] →
    let u := advance w.dt s
    (portHolds s p .tank = false → exec (.fillStop w p) s =
      .next { u with links := answered s p ⟨.fillStop, .noRight, []⟩ }) ∧
    (portHolds s p .tank = true → s.tnk.fill = none → exec (.fillStop w p) s =
      .next { u with links := answered s p ⟨.fillStop, .ok, []⟩ })) ∧
  (∀ (s : State) (f : Fill) (why : FillEnding) (stopper : Port) (v : Int),
    s.tnk.fill = some f → s.tnk.tank0.v = some v →
    endFill why (portCode stopper) s =
      { s with
        tnk := { s.tnk with fill := none, fillValve := false }
        hand := s.hand ++
          [.notice .tnk ⟨.fillEnded, BitVec.ofNat 8 (fillEndingCode why + 16 * portCode stopper),
              wordOfInt v, s.timeBase.setWidth 16⟩ (.subscribersAnd f.requester),
            .arrival .tnk .fillActive (some 0)] }) ∧
  (∀ (channel : Nat) (level : Int) (faulted : Bool) (s : State) (f : Fill),
    channel = 2 ∨ channel = 3 ∨ channel = 4 → s.tnk.fill = some f →
    let t := deliver (.levelToTnk channel level faulted) s
    let state := t.tnk.tank0.state
    let risen := f.suspended = false ∧
      f.riseLevel + (conf s).fillItems.minRise ≤ t.tnk.tank0.lf.getD 0
    let ends (why : FillEnding) : Prop :=
      t.tnk.fill = none ∧ t.tnk.fillValve = false ∧
      t.hand = s.hand ++ tank0Handovers s t ++ endingHandovers t f why 0
    let reached := (f.target : Int) ≤ t.tnk.tank0.v.getD 0
    (state = .unknown → ends .unknown) ∧ (state = .full → ends .full) ∧
    (state ≠ .unknown → state ≠ .full → reached → ends .reached) ∧
    (state ≠ .unknown → state ≠ .full → ¬reached →
      t.tnk.fillValve = s.tnk.fillValve ∧ t.hand = s.hand ++ tank0Handovers s t ∧
      (risen → t.tnk.fill = some { f with
        riseLevel := t.tnk.tank0.lf.getD 0, riseTime := s.timeBase
        stall := some ⟨s.timeBase, (conf s).fillItems.stallSec * 1000⟩ }) ∧
      (¬risen → t.tnk.fill = some f))) ∧
  ∀ s : State,
    let valve (m : Mode) (b : BlockSet) : Bool :=
      s.tnk.supply == .tank && pumping m && !holdsBlock b .draw
    let ending (x : TnkUnit) (f : Fill) (why : FillEnding) : State := { s with
      tnk := { x with fill := none, fillValve := false }
      hand := s.hand ++ endingHandovers s f why 0 }
    (∀ m : Mode,
      let t := deliver (.modeToTnk m) s
      let seen : TnkUnit := { s.tnk with mode := m, tankValve := valve m s.tnk.blocks }
      let suspended := s.tnk.supply == .tank && m == .pump
      (s.tnk.fill = none → t = { s with tnk := seen }) ∧
      ∀ f, s.tnk.fill = some f →
        (m ≠ .parked → m ≠ .pump → t = ending seen f .mode) ∧
        (m = .parked ∨ m = .pump →
          (f.suspended = suspended → t = { s with tnk := seen }) ∧
          (f.suspended = false → suspended = true → t = { s with tnk := { seen with
            fill := some { f with suspended := true, stall := none } } }) ∧
          (f.suspended = true → suspended = false → t = { s with tnk := { seen with
            fill := some { f with
              suspended := false, riseLevel := s.tnk.tank0.lf.getD 0, riseTime := s.timeBase
              stall := some ⟨s.timeBase, (conf s).fillItems.stallSec * 1000⟩ } } }))) ∧
    ∀ b : BlockSet,
      let t := deliver (.blocksToTnk b) s
      let seen : TnkUnit := { s.tnk with blocks := b, tankValve := valve s.tnk.mode b }
      (s.tnk.fill = none ∨ holdsBlock b .fill = false → t = { s with tnk := seen }) ∧
      ∀ f, s.tnk.fill = some f → holdsBlock b .fill = true → t = ending seen f .blocked

/-- R94 to R97: each step of the filter moves L_f towards L by at least 1 mm and never past it; with
a valid strapping table the volume rises with the level, meets every point of the table and stays
within its first and last volumes.  R90 to R95, R98, R100: what an arrival of a level channel does to
the readings and the tank records, and what TNK hands on.  That a tank's record holds no L after a
recomputation that gives none is the model's reading of R95 (DEDUCED, log entry 20). -/
def Obligations.LevelsConvergeAndVolumesStayWithinTheTable : Prop :=
  (∀ k lf l : Int, k = 1 ∨ k = 8 →
    (lf < l → lf < filterStep k lf l ∧ filterStep k lf l ≤ l) ∧
    (l < lf → l ≤ filterStep k lf l ∧ filterStep k lf l < lf) ∧
    (lf = l → filterStep k lf l = l)) ∧
  (∀ (table : List StrapPoint), strapValid table = true →
    (∀ lf : Int, ∀ q ∈ table.head?, ∀ q' ∈ table.getLast?,
      (q.volume : Int) ≤ volumeOf table lf ∧ volumeOf table lf ≤ q'.volume) ∧
    (∀ q ∈ table, volumeOf table q.level = q.volume) ∧
    (∀ lf lf' : Int, lf ≤ lf' → volumeOf table lf ≤ volumeOf table lf')) ∧
  ∀ (channel : Nat) (v : Int) (faulted : Bool) (s : State),
    let t := deliver (.levelToTnk channel v faulted) s
    let r : Reading := ⟨some v, !faulted⟩
    let k : Int := if s.spd.value = 0 ∧ s.seq.mode ≠ .roll then 8 else 1
    let tank (old : Tank) (table : List StrapPoint) (x : TankThresholds) (l : Option Int)
        (new : Tank) : Prop :=
      (l = none → new = ⟨none, old.lf, old.v, .unknown⟩) ∧
      ∀ level, l = some level → ∃ lf,
        (old.lf = none → lf = level) ∧ (∀ m, old.lf = some m → lf = filterStep k m level) ∧
        new = ⟨some level, some lf, some (volumeOf table lf),
          nextTankState x old.state (volumeOf table lf)⟩
    (channel = 2 ∨ channel = 3 ∨ channel = 4 →
      let front := if channel = 2 then r else s.tnk.front
      let centre := if channel = 3 then r else s.tnk.centre
      let rear := if channel = 4 then r else s.tnk.rear
      let at_ (x : Reading) : Int := x.level.getD 0
      ∃ l : Option Int,
        (front.good = true → rear.good = true →
          l = some (Int.tdiv (at_ front + at_ rear + 1) 2)) ∧
        (centre.good = true → front.good ≠ rear.good → l = centre.level) ∧
        (centre.good = false → (front.good = false ∨ rear.good = false) → l = none) ∧
        (front.good = false → rear.good = false → l = none) ∧
        t = { s with
          tnk := { s.tnk with
            front := front, centre := centre, rear := rear, tank0 := t.tnk.tank0
            episode := t.tnk.episode, fill := t.tnk.fill, fillValve := t.tnk.fillValve }
          hand := t.hand } ∧
        tank s.tnk.tank0 (conf s).strap0 (conf s).tank0 l t.tnk.tank0 ∧
        let compared := l.isSome = true ∧ front.good = true ∧ rear.good = true ∧
          centre.good = true
        let apart := at_ centre - l.getD 0
        let differs := ((conf s).tolerances.gauge : Int) < |apart|
        (¬compared → t.tnk.episode = s.tnk.episode) ∧
        (compared → (t.tnk.episode = true ↔ differs)) ∧
        (s.tnk.fill = none → t.tnk.fill = none ∧ t.tnk.fillValve = s.tnk.fillValve ∧
          t.hand = s.hand ++ tank0Handovers s t) ∧
        ∀ f, s.tnk.fill = some f → ∃ ended,
          (t.tnk.fill ≠ none → ended = []) ∧
          (t.tnk.fill = none → ∃ why, ended = endingHandovers t f why 0) ∧
          t.hand = s.hand ++ tank0Handovers s t ++ ended) ∧
    (channel = 5 →
      t = { s with
        tnk := { s.tnk with second := r, tank1 := t.tnk.tank1 }
        hand := s.hand ++ tankHandovers s 1 .tank1Volume .tank1State s.tnk.tank1 t.tnk.tank1 } ∧
      tank s.tnk.tank1 (conf s).strap1 (conf s).tank1 (if faulted then none else some v)
        t.tnk.tank1)

/-- R98: the state that a volume gives, by the state held. -/
def Obligations.TankStatesKeepTheirBands : Prop :=
  ∀ (t : TankThresholds) (held : TankState) (v : Int), thresholdsValid t = true →
    let kept := match held with
      | .unknown => False
      | .empty => v ≤ t.empty + t.hv
      | .low => t.empty < v ∧ v ≤ t.low + t.hv
      | .normal => t.low < v ∧ v < t.full
      | .full => (t.full : Int) - t.hv ≤ v
    (kept → nextTankState t held v = held) ∧
    (¬kept → (v ≤ t.empty → nextTankState t held v = .empty) ∧
      (t.empty < v → v ≤ t.low → nextTankState t held v = .low) ∧
      (t.low < v → v < t.full → nextTankState t held v = .normal) ∧
      (t.full ≤ v → nextTankState t held v = .full))

/-! ### LKT -/

/-- R44, R45, R51: the five comparisons, plain and widened; and where the plain test holds the widened
one holds too. -/
def Obligations.ComparisonsTestValuesPlainAndWidened : Prop :=
  ∀ (r : RowRecord) (v : Int),
    let lo := r.lo + r.h
    let hi := r.hi - r.h
    let sameBits := ∀ n < 16, (wordOfInt r.hi).getLsbD n = true →
      (wordOfInt v).getLsbD n = (wordOfInt r.lo).getLsbD n
    (r.comparison = .always → ∀ wide, compare r wide v = true) ∧
    (r.comparison = .inside →
      (compare r false v = true ↔ r.lo ≤ v ∧ v ≤ r.hi) ∧
      (compare r true v = true ↔ r.lo - r.h ≤ v ∧ v ≤ r.hi + r.h)) ∧
    (r.comparison = .outside →
      (compare r false v = true ↔ v < r.lo ∨ r.hi < v) ∧
      (lo ≤ hi → (compare r true v = true ↔ v < lo ∨ hi < v)) ∧
      (hi < lo → (compare r true v = true ↔ v ≠ Int.tdiv (r.lo + r.hi) 2))) ∧
    (r.comparison = .maskedEqual → ∀ wide, compare r wide v = true ↔ sameBits) ∧
    (r.comparison = .maskedDiffer → ∀ wide, compare r wide v = true ↔ ¬sameBits) ∧
    (r.lo ≤ r.hi → compare r false v = true → compare r true v = true)

/-- R43, R46, R48 to R56, R58: what an arrival of a source and a change of the mode do to each
row, by its state, its condition and its precursor, and what LKT hands on; what a condition is, that of
row 6 (R61) included; and HOLD_TIMER_EXPIRY.  A
row whose precursor changes and which the event concerns too is treated for the precursor first
(DEDUCED, log entry 10); the clauses on precursors speak of rows that the arrival does not concern. -/
def Obligations.RowsFollowArrivalsModesAndTimers : Prop :=
  (∀ (sender : UnitName) (x : Source) (v : Option Int) (s : State) (i : Nat), i < 24 →
    s.lkt.rows.length = 24 → s.lkt.sources.length = 17 →
    let t := deliver (.arrival sender x v) s
    let u := takeValue x v s
    let r := rowRecord (conf s) i
    let slot := rowSlot s i
    let judgedNow := judged s.timeBase r (condition u i r false) (condition u i r true)
    let acts (s : State) (p : Nat) : Bool := inEffect (rowSlot s p).state
    Handled s t ∧ t.lkt.mode = s.lkt.mode ∧
    sourceSlot t x = ⟨v, if sourceFaulted s x then (sourceSlot s x).lastGood else v⟩ ∧
    (∀ y, y ≠ x → sourceSlot t y = sourceSlot s y) ∧ t.lkt.sources.length = 17 ∧
    (watches i r x = true → (∀ p ∈ r.precursor, acts t p = acts s p) →
      rowSlot t i = judgedNow slot) ∧
    (watches i r x = false → Follows s t i)) ∧
  (∀ (m : Mode) (s : State) (i : Nat), i < 24 → s.lkt.rows.length = 24 →
    let t := deliver (.modeToLkt m) s
    let r := rowRecord (conf s) i
    let slot := rowSlot s i
    let judgedNow := judged s.timeBase r (condition s i r false) (condition s i r true)
    let acts (s : State) (p : Nat) : Bool := inEffect (rowSlot s p).state
    Handled s t ∧ t.lkt.mode = m ∧ t.lkt.sources = s.lkt.sources ∧
    ((∀ p ∈ r.precursor, acts t p = acts s p) →
    (inMask r.mask m = false →
      (slot.state = .active → rowSlot t i = if r.latched then ⟨.latched, none⟩ else ⟨.off, none⟩) ∧
      (slot.state = .latched → rowSlot t i = slot) ∧
      (slot.state ≠ .active → slot.state ≠ .latched → rowSlot t i = ⟨.off, none⟩)) ∧
    (inMask r.mask m = true →
      (slot.state ≠ .off → rowSlot t i = judgedNow slot) ∧
      (slot.state = .off → r.enable = false → rowSlot t i = ⟨.off, none⟩) ∧
      (slot.state = .off → r.enable = true →
        ((∀ p ∈ r.precursor, acts s p = true) → rowSlot t i = judgedNow ⟨.clear, none⟩) ∧
        ((∃ p ∈ r.precursor, acts s p = false) → rowSlot t i = ⟨.wait, none⟩))))) ∧
  (∀ (s : State) (r : RowRecord) (wide : Bool),
    (condition s 6 r wide = true ↔
      (sourceSlot s .supply).latest = some (supplyCode .tank : Int) ∧
      ((sourceSlot s .tank0State).latest = some (tankStateCode .unknown : Int) ∨
        (sourceSlot s .tank0State).latest = some (tankStateCode .empty : Int))) ∧
    ∀ i, i ≠ 6 → r.comparison = .always → condition s i r wide = true) ∧
  (∀ (s : State) (i : Nat) (r : RowRecord) (wide : Bool), i ≠ 6 → r.comparison ≠ .always →
    let value := if sourceFaulted s r.source then (sourceSlot s r.source).lastGood
      else (sourceSlot s r.source).latest
    (sourceFaulted s r.source = true → r.onFaultTrue = true → condition s i r wide = true) ∧
    (sourceFaulted s r.source = false ∨ r.onFaultTrue = false →
      (value = none → condition s i r wide = false) ∧
      ∀ v, value = some v → condition s i r wide = compare r wide v)) ∧
  (∀ (w : When) (i : Nat) (s : State), s.phase = .running → s.hand = [] → i < 24 →
    s.lkt.rows.length = 24 → (rowSlot s i).state = .holding →
    let u := advance w.dt s
    timerDue u.timeBase (rowSlot s i).timer = true →
    ∃ x, exec (.holdTimerExpiry w i) s = .next (takeHandovers w x) ∧
      Handled u x ∧ rowSlot x i = ⟨.active, none⟩ ∧
      x.lkt.mode = s.lkt.mode ∧ x.lkt.sources = s.lkt.sources ∧
      ∀ j < 24, j ≠ i → Follows u x j) ∧
  ∀ (w : When) (i : Nat) (s : State), s.phase = .running → s.hand = [] → i < 24 →
    let u := advance w.dt s
    let posted : Notice :=
      ⟨.rowState, BitVec.ofNat 8 i, 0x0403, u.timeBase.setWidth 16⟩
    let x : State := { u with lkt := { s.lkt with rows := s.lkt.rows.set i ⟨.active, none⟩ } }
    (LktSound s → (rowSlot s i).state = .holding →
      timerDue u.timeBase (rowSlot s i).timer = true → (rowRecord (conf s) i).blocks = 0 →
      (∀ j < 24, (rowRecord (conf s) j).precursor ≠ some i) →
      exec (.holdTimerExpiry w i) s =
        .next (takeHandovers w { x with hand := [.notice .lkt posted .subscribers] }) ∧
      (w.takes = none →
        exec (.holdTimerExpiry w i) s = .next (placeNotice posted .subscribers x))) ∧
    ((rowSlot s i).state ≠ .holding → exec (.holdTimerExpiry w i) s = .next u)

/-- R62, R47, R52, R54 to R56: ACK_ROW of a LATCHED row, and what it does to the others, whether or not its mask holds the mode, and its refusals. -/
def Obligations.AckRowPlacesALatchedRow : Prop :=
  ∀ (w : When) (p : Port) (s : State) (row : Word), s.phase = .running → s.hand = [] →
    askedOf s p .ackRow = some [row] →
    let u := advance w.dt s
    let state := (rowSlot s row.toNat).state
    (portHolds s p .ack = true → row.toNat < 24 → s.lkt.rows.length = 24 → state = .latched →
      let r := rowRecord (conf s) row.toNat
      let takesPart := r.enable = true ∧ inMask r.mask s.lkt.mode = true
      let mayAct := ∀ q ∈ r.precursor, inEffect (rowSlot s q).state = true
      (∃ x, exec (.ackRow w p) s = .next (takeHandovers w x) ∧
        Handled { u with links := answered s p ⟨.ackRow, .ok, []⟩ } x ∧
        x.lkt.mode = s.lkt.mode ∧ x.lkt.sources = s.lkt.sources ∧
        (∀ j < 24, j ≠ row.toNat → Follows u x j) ∧
        (¬takesPart → rowSlot x row.toNat = ⟨.off, none⟩) ∧
        (takesPart → ¬mayAct → rowSlot x row.toNat = ⟨.wait, none⟩) ∧
        (takesPart → mayAct → rowSlot x row.toNat =
          judged u.timeBase r (condition s row.toNat r false) (condition s row.toNat r true)
            ⟨.clear, none⟩) ∧
        ((rowSlot x row.toNat).state ≠ .latched ∧
          notice u .lkt .rowState row.toNat
            (wordOfNat (256 * rowStateCode (rowSlot x row.toNat).state + 5)) .subscribers ∈
              x.hand)) ∧
      (inMask r.mask s.lkt.mode = false → standing s.seq.mode = true →
        ∃ t, exec (.ackRow w p) s = .next t ∧
          still t = { still u with links := answered s p ⟨.ackRow, .ok, []⟩ } ∧
          rowSlot t row.toNat = ⟨.off, none⟩ ∧ t.seq.mode = s.seq.mode)) ∧
    (∀ r : Result,
      (portHolds s p .ack = false ∧ r = .noRight) ∨
      (portHolds s p .ack = true ∧ 24 ≤ row.toNat ∧ r = .badArgument) ∨
      (portHolds s p .ack = true ∧ row.toNat < 24 ∧ state = .active ∧ r = .condition) ∨
      (portHolds s p .ack = true ∧ row.toNat < 24 ∧
        (state = .off ∨ state = .wait ∨ state = .clear ∨ state = .holding) ∧ r = .ok) →
      exec (.ackRow w p) s = .next { u with links := answered s p ⟨.ackRow, r, []⟩ })

/-- R63, R65, R47, R52, R54 to R56: WRITE_ROW replaces the record and places the row under it, whatever
state and timer the row had, with what it does to the other rows and what LKT hands on, or is refused by the first check that fails and changes nothing. -/
def Obligations.WriteRowReplacesOrRefuses : Prop :=
  ∀ (w : When) (p : Port) (s : State) (c : WorkingConfig) (row : Word) (ws : List Word),
    s.phase = .running → s.hand = [] → s.cfg.working = some c → c.rows.length = 12 →
    askedOf s p .writeRow = some (row :: ws) →
    let u := advance w.dt s
    let held := portHolds s p .lockoutEdit = true
    let index := 12 ≤ row.toNat ∧ row.toNat ≤ 23
    let valid := ∃ r, rowOfWords ws = some r ∧ rowValid row.toNat r = true
    let busy := s.cfg.storeBusy = true
    let locked := ∃ q, s.lkt.lock = some q ∧ q ≠ p
    let admitted := s.seq.mode = .road ∨ s.seq.mode = .parked
    (∀ r, held → index → rowOfWords ws = some r → rowValid row.toNat r = true → ¬busy → ¬locked →
      admitted →
      let takesPart := r.enable = true ∧ inMask r.mask s.lkt.mode = true
      let mayAct := ∀ q ∈ r.precursor, inEffect (rowSlot s q).state = true
      ∃ x, exec (.writeRow w p) s = .next (takeHandovers w x) ∧
        Handled { u with
          cfg := { s.cfg with working := some { c with rows := c.rows.set (row.toNat - 12) r } }
          links := answered s p ⟨.writeRow, .ok, []⟩ } x ∧
        x.lkt.mode = s.lkt.mode ∧ x.lkt.sources = s.lkt.sources ∧
        (s.lkt.rows.length = 24 →
          (∀ j < 24, j ≠ row.toNat → Follows u x j) ∧
          (¬takesPart → rowSlot x row.toNat = ⟨.off, none⟩) ∧
          (takesPart → ¬mayAct → rowSlot x row.toNat = ⟨.wait, none⟩) ∧
          (takesPart → mayAct → rowSlot x row.toNat =
            judged u.timeBase r (condition s row.toNat r false) (condition s row.toNat r true)
              ⟨.clear, none⟩))) ∧
    (∀ x : Result,
      (¬held ∧ x = .noRight) ∨ (held ∧ ¬(index ∧ valid) ∧ x = .badArgument) ∨
      (held ∧ index ∧ valid ∧ busy ∧ x = .busy) ∨
      (held ∧ index ∧ valid ∧ ¬busy ∧ locked ∧ x = .locked) ∨
      (held ∧ index ∧ valid ∧ ¬busy ∧ ¬locked ∧ ¬admitted ∧ x = .condition) →
      exec (.writeRow w p) s = .next { u with links := answered s p ⟨.writeRow, x, []⟩ })

/-- R66: LOCK_TABLE SET and CLEAR.  Which row answers an argument that is neither is the model's
choice (log entry 14). -/
def Obligations.LockTableSetsAndFrees : Prop :=
  ∀ (w : When) (p : Port) (s : State), s.phase = .running → s.hand = [] →
    let u := advance w.dt s
    let result (c : Instr) (lock : Option Port) (r : Result) (data : List Word) : Prop :=
      exec c s = .next { u with
        lkt := { s.lkt with lock := lock }, links := answered s p ⟨.lockTable, r, data⟩ }
    (askedOf s p .lockTable = some [1] →
      (portHolds s p .config = false → result (.lockTableSet w p) s.lkt.lock .noRight []) ∧
      (portHolds s p .config = true → s.lkt.lock = none ∨ s.lkt.lock = some p →
        result (.lockTableSet w p) (some p) .ok [wordOfNat (portCode p)]) ∧
      (∀ q, portHolds s p .config = true → s.lkt.lock = some q → q ≠ p →
        result (.lockTableSet w p) s.lkt.lock .locked [wordOfNat (portCode q)]) ∧
      exec (.lockTableClear w p) s = .next u) ∧
    (askedOf s p .lockTable = some [0] →
      (portHolds s p .config = false → result (.lockTableClear w p) s.lkt.lock .noRight []) ∧
      (portHolds s p .config = true → s.lkt.lock = none ∨ s.lkt.lock = some p →
        result (.lockTableClear w p) none .ok [3]) ∧
      (∀ q, portHolds s p .config = true → s.lkt.lock = some q → q ≠ p →
        result (.lockTableClear w p) s.lkt.lock .locked [wordOfNat (portCode q)]) ∧
      exec (.lockTableSet w p) s = .next u) ∧
    ∀ arg : Word, askedOf s p .lockTable = some [arg] → 1 < arg.toNat →
      (∀ r : Result, (portHolds s p .config = false ∧ r = .noRight) ∨
          (portHolds s p .config = true ∧ r = .badArgument) →
        result (.lockTableSet w p) s.lkt.lock r [] ∧ result (.lockTableClear w p) s.lkt.lock r [])

/-! ### CFG -/

/-- R157, R60, R88, R92, R99, R119: a WRITE_CONFIG of a tuning item takes each value clamped, those of
a tank's thresholds in word order, each against those taken before it and the working values after it;
R79, R99: what GOV does and hands on when C_cfg changes and TNK when tank 0's FULL does, and that before
the hand-overs are taken nothing else changes (R60); R157, check 2, for every item but 9, 11 and 12.  That a write whose clamped values equal those held
is answered CLAMPED is DEDUCED (log entry 5). -/
def Obligations.TuningWritesAreClampedInOrder : Prop :=
  ∀ (w : When) (p : Port) (s : State) (c : WorkingConfig) (item part : Word) (ws : List Word),
    s.phase = .running → s.cfg.working = some c → configValid c = true →
    askedOf s p .writeConfig = some (item :: part :: ws) →
    let u := advance w.dt s
    let v (n : Nat) : Nat := valueAt ws n
    let clamp (lo hi x : Nat) : Nat := max lo (min hi x)
    let admitted := portHolds s p .config = true ∧ s.cfg.storeBusy = false
    let taken (i k : Nat) (new : WorkingConfig) (asWritten : Prop) : Prop :=
      admitted → item.toNat = i → part.toNat = k →
      ∃ r, (asWritten → r = .ok) ∧ (¬asWritten → r = .clamped) ∧
        (∃ t, exec (.writeConfig w p) s = .next t ∧
          still t = { still u with
            cfg := { s.cfg with working := some new }
            links := answered s p ⟨.writeConfig, r, []⟩ }) ∧
        (s.hand = [] → ∃ x, exec (.writeConfig w p) s = .next (takeHandovers w x) ∧
          let ceiling := new.gains.ceiling
          let full := new.tank0.full
          let intake := if s.gov.watch = .low then s.gov.cIntake else ceiling
          let least := if holdsBlock s.gov.blocks .throttle then 0 else min ceiling intake
          Governed { u with
            cfg := { s.cfg with working := some new }
            links := answered s p ⟨.writeConfig, r, []⟩
            tnk := if full = c.tank0.full then s.tnk else { s.tnk with
              fill := s.tnk.fill.map (fun f => { f with target := min f.target full }) } } x
            (if ceiling = c.gains.ceiling then s.gov
              else { s.gov with cIntake := intake, c := least, d := min s.gov.d least }) [] [])
    let thresholds (old : TankThresholds) : TankThresholds :=
      let empty := min (v 0) (old.low - 1)
      let low := min (old.full - 1) (max (empty + 1) (v 1))
      ⟨empty, low, max (low + 1) (v 2), min 1000 (v 3)⟩
    let written (t : TankThresholds) : Prop :=
      t.empty = v 0 ∧ t.low = v 1 ∧ t.full = v 2 ∧ t.hv = v 3
    let floor : Int := (ws.getD 2 0).toInt
    taken 1 0
      { c with gains := ⟨min 255 (v 0), min 255 (v 1), min 255 (v 2), min 255 (v 3),
        clamp 1 100 (v 4), clamp 100 1000 (v 5)⟩ }
      (v 0 ≤ 255 ∧ v 1 ≤ 255 ∧ v 2 ≤ 255 ∧ v 3 ≤ 255 ∧ 1 ≤ v 4 ∧ v 4 ≤ 100 ∧ 100 ≤ v 5 ∧
        v 5 ≤ 1000) ∧
    taken 2 0
      { c with govDefaults := ⟨clamp 200 2400 (v 0), clamp 600 3000 (v 1),
        max (-60) (min 200 floor), clamp 5 100 (v 3)⟩ }
      (200 ≤ v 0 ∧ v 0 ≤ 2400 ∧ 600 ≤ v 1 ∧ v 1 ≤ 3000 ∧ -60 ≤ floor ∧ floor ≤ 200 ∧ 5 ≤ v 3 ∧
        v 3 ≤ 100) ∧
    taken 3 0
      { c with fixedRows := ⟨clamp 10 150 (v 0), clamp 1000 3500 (v 1), min 60000 (v 2),
        min 60000 (v 3), min 60000 (v 4), min 60000 (v 5), min 60000 (v 6)⟩ }
      (10 ≤ v 0 ∧ v 0 ≤ 150 ∧ 1000 ≤ v 1 ∧ v 1 ≤ 3500 ∧ v 2 ≤ 60000 ∧ v 3 ≤ 60000 ∧
        v 4 ≤ 60000 ∧ v 5 ≤ 60000 ∧ v 6 ≤ 60000) ∧
    taken 4 0 { c with tank0 := thresholds c.tank0 } (written (thresholds c.tank0)) ∧
    taken 4 1 { c with tank1 := thresholds c.tank1 } (written (thresholds c.tank1)) ∧
    taken 5 0 { c with tolerances := ⟨clamp 10 100 (v 0), clamp 10 200 (v 1)⟩ }
      (10 ≤ v 0 ∧ v 0 ≤ 100 ∧ 10 ≤ v 1 ∧ v 1 ≤ 200) ∧
    (∀ old : TankThresholds, old = c.tank0 ∨ old = c.tank1 →
      (thresholds old).empty < (thresholds old).low ∧
      (thresholds old).low < (thresholds old).full) ∧
    (∀ r : Result, s.hand = [] →
      (portHolds s p .config = false ∧ item ≠ 9 ∧ item ≠ 11 ∧ item ≠ 12 ∧ r = .noRight) ∨
      (portHolds s p .config = true ∧ item ≠ 9 ∧ item ≠ 11 ∧ item ≠ 12 ∧
        (item = 0 ∨ 14 < item.toNat ∨ partCount item.toNat ≤ part.toNat) ∧ r = .badArgument) ∨
      (portHolds s p .config = true ∧ item.toNat ≤ 5 ∧ part.toNat < partCount item.toNat ∧
        s.cfg.storeBusy = true ∧ r = .busy) →
      exec (.writeConfig w p) s =
        .next { u with links := answered s p ⟨.writeConfig, r, []⟩ })

/-- R157, with the ranges of R8, R123, R125, R117, R114, R129, R105, R107, R101, R35, R131, R29, R144
and R150: a WRITE_CONFIG of a structural item of single parts is taken whole on the road or parked with
no store in progress, and refused whole otherwise.  R116, R120, R121: what SPD does and hands on when
the report interval changes or SPEED_SOURCE moves; R67: what becomes of the table lock.  The model's
readings in it: at exactly 3 x I after the last report a shorter interval sets the timer and the
reports are not yet stale (DEDUCED, log entry 22), and the bits that items 13 and 14 ignore are dropped
(DEDUCED, log entry 24). -/
def Obligations.StructuralWritesAreTakenWholeOrRefused : Prop :=
  ∀ (w : When) (p : Port) (s : State) (c : WorkingConfig) (item part : Word) (ws : List Word),
    s.phase = .running → s.hand = [] → s.cfg.working = some c → portHolds s p .config = true →
    askedOf s p .writeConfig = some (item :: part :: ws) →
    let u := advance w.dt s
    let v (n : Nat) : Nat := valueAt ws n
    let within_ (lo hi n : Nat) : Prop := lo ≤ v n ∧ v n ≤ hi
    let admitted := s.seq.mode = .road ∨ s.seq.mode = .parked
    let row (i k : Nat) (valid : Prop) (new : WorkingConfig) (spd : SpdUnit → Prop) : Prop :=
      item.toNat = i → part.toNat = k →
      (valid → s.cfg.storeBusy = false → admitted →
        ∃ t, exec (.writeConfig w p) s = .next t ∧
          still t = { still u with
            spd := t.spd
            cfg := { s.cfg with working := some new }
            links := answered s p ⟨.writeConfig, .ok, []⟩ } ∧
          t = takeHandovers w { u with
            spd := t.spd
            lkt := { s.lkt with lock :=
              if new.rights = c.rights then s.lkt.lock
              else s.lkt.lock.filter (fun q => holdsRight (portGet new.rights q) .config) }
            cfg := { s.cfg with working := some new }
            links := answered s p ⟨.writeConfig, .ok, []⟩
            hand := speedHandovers u false s.spd t.spd } ∧
          spd t.spd) ∧
      (∀ r : Result,
        (¬valid ∧ r = .badArgument) ∨ (valid ∧ s.cfg.storeBusy = true ∧ r = .busy) ∨
        (valid ∧ s.cfg.storeBusy = false ∧ ¬admitted ∧ r = .condition) →
        exec (.writeConfig w p) s =
          .next { u with links := answered s p ⟨.writeConfig, r, []⟩ })
    let same (x : SpdUnit) : Prop := x = s.spd
    let stale (x : SpdUnit) : Prop := x = { s.spd with
      freshness := .stale, staleTimer := none, disagreement := .agree, disTimer := none
      value := s.spd.measured, transmission := .unknown }
    let paced (x : SpdUnit) : Prop :=
      (v 3 = c.rates.reportInterval ∨ s.spd.freshness = .stale → same x) ∧
      ∀ r, v 3 ≠ c.rates.reportInterval → s.spd.freshness = .fresh → s.spd.report = some r →
        (3 * v 3 < (u.timeBase - r.arrival).toNat → stale x) ∧
        ((u.timeBase - r.arrival).toNat ≤ 3 * v 3 →
          x = { s.spd with staleTimer := some ⟨r.arrival, 3 * v 3⟩ })
    let mask (n : Nat) : Word := ws.getD n 0 &&& 0x05FA
    row 6 0 (within_ 500 5000 0 ∧ within_ 500 5000 1 ∧ within_ 500 5000 2 ∧ within_ 300 1200 3 ∧
        within_ 5 100 4)
      { c with timing := ⟨v 0, v 1, v 2, v 3, v 4⟩ } same ∧
    row 7 0 (within_ 1 64 0 ∧ within_ 100 1000 1 ∧ within_ 1000 60000 2 ∧ within_ 20 1000 3 ∧
        within_ 2 250 4)
      { c with rates := ⟨v 0, v 1, v 2, v 3, v 4⟩ } paced ∧
    (∀ supply, v 3 ≤ 1 → supplyCode supply = v 3 →
      row 8 0 (within_ 1 60 0 ∧ within_ 10 120 1 ∧ within_ 5 100 2 ∧ v 4 ≤ 1)
        { c with fillItems := ⟨v 0, v 1, v 2, supply, v 4 == 1⟩ } same) ∧
    (1 < v 3 → row 8 0 False c same) ∧
    (∀ k < 8,
      row 10 k (v 0 ≤ 4095 ∧ v 1 ≤ 4095 ∧ v 2 ≤ v 3 ∧ v 3 ≤ 4095)
        { c with calibration := c.calibration.set k ⟨v 0, v 1, v 2, v 3⟩ } same) ∧
    row 13 0 (oneSpeedSource (rightsOfWords ws) = true ∧ ranksValid (ranksOfWords ws) = true)
      { c with rights := rightsOfWords ws, ranks := ranksOfWords ws }
      (fun x =>
        (speedSourceOf (rightsOfWords ws) = speedSourceOf c.rights ∨ s.spd.freshness = .stale →
          same x) ∧
        (speedSourceOf (rightsOfWords ws) ≠ speedSourceOf c.rights → s.spd.freshness = .fresh →
          stale x)) ∧
    row 14 0 True { c with subscriptions := ⟨mask 0, mask 1, mask 2⟩ } same

/-- R157, R158, R129, R97: the scan list and the strapping tables are written part by part, the last
part completing the item; a value out of its range and a whole-item check that fails are answered
BAD_ARGUMENT before BUSY and CONDITION; the staging record is discarded at completion and at a part
refused at a check, where at NO_RIGHT a free value says whether it is (R145 beside R158, log entry 38).  The place of
the whole-item checks, and that a part refused for its number discards the record, are the model's
reading of R157 and R158 (DEDUCED, log entry 23). -/
def Obligations.TablesAreWrittenPartByPart : Prop :=
  ∀ (w : When) (p : Port) (s : State) (c : WorkingConfig) (part0 part1 part2 : List Word),
    s.phase = .running → s.hand = [] → s.cfg.working = some c →
    part0.length = 7 → part1.length = 7 → part2.length = 7 →
    let u := advance w.dt s
    let asks (item part : Word) (ws : List Word) : Prop :=
      askedOf s p .writeConfig = some (item :: part :: ws)
    let result (working : WorkingConfig) (staging : Option Staging) (r : Result) : Prop :=
      exec (.writeConfig w p) s = .next { u with
        cfg := { s.cfg with working := some working, staging := portSet s.cfg.staging p staging }
        links := answered s p ⟨.writeConfig, r, []⟩ }
    let holds := portHolds s p .config = true
    let admitted := holds ∧ s.cfg.storeBusy = false ∧
      (s.seq.mode = .road ∨ s.seq.mode = .parked)
    let small (n : Nat) (entries : List Word) : Prop := ∀ e ∈ entries.take n, e.toNat ≤ 7
    let n := valueAt part0 0
    let head := 1 ≤ n ∧ n ≤ 12 ∧ small (min 6 n) (part0.drop 1)
    let tail := small (min 6 (n - 6)) part1
    let list := (((part0.drop 1).take 6 ++ part1.take 6).map BitVec.toNat).take n
    let low (ws : List Word) : Prop := valueAt ws 0 ≤ 2000 ∧ valueAt ws 2 ≤ 2000 ∧
      valueAt ws 4 ≤ 2000
    let table := pointsOfWords part0 ++ pointsOfWords part1 ++ pointsOfWords part2
    let rising : Prop := (table.map StrapPoint.level).Pairwise (· < ·) ∧
      (table.map StrapPoint.volume).Pairwise (· < ·)
    (asks 9 0 part0 → admitted →
      (head → result c (some ⟨9, 1, [part0]⟩) .ok) ∧ (¬head → result c none .badArgument)) ∧
    (asks 9 1 part1 → admitted → portGet s.cfg.staging p = some ⟨9, 1, [part0]⟩ → head →
      (tail → 0 ∈ list → result { c with scanList := list } none .ok) ∧
      (tail → 0 ∉ list → result c none .badArgument) ∧ (¬tail → result c none .badArgument)) ∧
    (∀ item : Word, item = 11 ∨ item = 12 →
      (asks item 0 part0 → admitted →
        (low part0 → result c (some ⟨item.toNat, 1, [part0]⟩) .ok) ∧
        (¬low part0 → result c none .badArgument)) ∧
      (asks item 1 part1 → admitted →
        portGet s.cfg.staging p = some ⟨item.toNat, 1, [part0]⟩ →
        (low part1 → result c (some ⟨item.toNat, 2, [part0, part1]⟩) .ok) ∧
        (¬low part1 → result c none .badArgument)) ∧
      (asks item 2 part2 → admitted →
        portGet s.cfg.staging p = some ⟨item.toNat, 2, [part0, part1]⟩ → low part0 → low part1 →
        (low part2 → rising →
          (item = 11 → result { c with strap0 := table } none .ok) ∧
          (item = 12 → result { c with strap1 := table } none .ok)) ∧
        (¬(low part2 ∧ rising) → result c none .badArgument))) ∧
    (∀ item part : Word, item = 9 ∨ item = 11 ∨ item = 12 →
      (portHolds s p .config = false → asks item part part1 →
        result c (if Config.discardsWithoutRight then none else portGet s.cfg.staging p) .noRight) ∧
      (holds → asks item part part1 → partCount item.toNat ≤ part.toNat →
        result c none .badArgument) ∧
      (admitted → asks item part part1 → 1 ≤ part.toNat → part.toNat < partCount item.toNat →
        (∀ x, portGet s.cfg.staging p = some x → x.item ≠ item.toNat ∨ x.next ≠ part.toNat) →
        result c none .badArgument)) ∧
    (∀ (item part : Word) (r : Result), holds →
      (s.cfg.storeBusy = true ∧ r = .busy) ∨
      (s.cfg.storeBusy = false ∧ s.seq.mode ≠ .road ∧ s.seq.mode ≠ .parked ∧ r = .condition) →
      (asks 9 0 part0 → head → result c none r) ∧
      (asks 9 1 part1 → portGet s.cfg.staging p = some ⟨9, 1, [part0]⟩ → head → tail → 0 ∈ list →
        result c none r) ∧
      (asks 9 1 part1 → (∀ x, portGet s.cfg.staging p = some x → x.item ≠ 9) →
        result c none r) ∧
      (item = 11 ∨ item = 12 → asks item part part1 → low part1 →
        part.toNat ≤ 1 ∨ (part.toNat = 2 ∧
          ∀ x, portGet s.cfg.staging p = some x → x.item ≠ item.toNat ∨ x.next ≠ 2) →
        result c none r) ∧
      (item = 11 ∨ item = 12 → asks item 2 part2 →
        portGet s.cfg.staging p = some ⟨item.toNat, 2, [part0, part1]⟩ → low part0 → low part1 →
        low part2 → rising → result c none r)) ∧
    ∀ item part : Word, holds →
      (asks 9 0 part0 → ¬head → result c none .badArgument) ∧
      (asks 9 1 part1 → portGet s.cfg.staging p = some ⟨9, 1, [part0]⟩ → ¬(tail ∧ 0 ∈ list) →
        result c none .badArgument) ∧
      (item = 11 ∨ item = 12 → part.toNat ≤ 2 → asks item part part1 → ¬low part1 →
        result c none .badArgument) ∧
      (item = 11 ∨ item = 12 → asks item 2 part2 →
        portGet s.cfg.staging p = some ⟨item.toNat, 2, [part0, part1]⟩ → ¬rising →
        result c none .badArgument)

/-- R160, R161: STORE_CONFIG, taken and refused, and STORE_END, with its notice and its arrival.  That
the image after a store is the words written with those replaced that the memory did not hold as
written is the model's choice (log entry 34), and so is the mark that an image is whole (log
entry 18). -/
def Obligations.StoresWriteTheImage : Prop :=
  ∀ (w : When) (p : Port) (s : State) (c : WorkingConfig), s.phase = .running →
    s.cfg.working = some c →
    let u := advance w.dt s
    let held := portHolds s p .config = true
    let busy := s.cfg.storeBusy = true
    let admitted := s.seq.mode = .road ∨ s.seq.mode = .parked
    (askedOf s p .storeConfig = some [] → s.hand = [] →
      (held → ¬busy → admitted →
        exec (.storeConfig w p) s = .next { u with
          cfg := { s.cfg with
            image := ⟨imageWords c, wordSum (imageWords c), true⟩, storeBusy := true }
          links := answered s p ⟨.storeConfig, .taken, []⟩ }) ∧
      (∀ r : Result,
        (¬held ∧ r = .noRight) ∨ (held ∧ busy ∧ r = .busy) ∨
        (held ∧ ¬busy ∧ ¬admitted ∧ r = .condition) →
        exec (.storeConfig w p) s =
          .next { u with links := answered s p ⟨.storeConfig, r, []⟩ })) ∧
    (∀ flaws,
      let image := flaws.foldl flawImage s.cfg.image
      let invalid := !imageGood image
      (busy →
        (∃ t, exec (.storeEnd w flaws) s = .next t ∧
          still t = { still u with cfg := { s.cfg with
            image := image, storeBusy := false, configInvalid := invalid } } ∧
          (flaws = [] → s.cfg.image = imageOf c → t.cfg.configInvalid = false)) ∧
        (s.hand = [] →
          exec (.storeEnd w flaws) s = .next (takeHandovers w { u with
            cfg := { s.cfg with
              image := image, storeBusy := false, configInvalid := invalid }
            hand :=
              (if invalid = s.cfg.configInvalid then []
                else [.arrival .cfg .configInvalid (some (bit invalid))]) ++
              [notice u .cfg .configStored (bit invalid) s.cfg.image.checksum .subscribers] }))) ∧
      (¬busy → s.hand = [] → exec (.storeEnd w flaws) s = .next u))
end

