-- ==== Sys2Proof/Laws/Config.lean ====
section
/-! SUPPORT. The two readings of an image agree: what R160 writes of a valid configuration, the load
takes as that configuration. -/

namespace Sys2Proof.Machine

/-- Item 8, where every code names a value. -/
theorem fillItemsOfImage_of_fillItemsOfWords {ws : List Word} {f : FillItems}
    (h : fillItemsOfWords ws = some f) : fillItemsOfImage ws = f := by
  unfold fillItemsOfWords at h
  split at h
  · rename_i x hx
    split at h
    · rename_i hv; cases h; simp [fillItemsOfImage, hx, hv]
    · cases h
  · cases h

/-- A row's record, where every code names a value. -/
theorem rowOfImage_of_rowOfWords {ws : List Word} {r : RowRecord} (h : rowOfWords ws = some r) :
    rowOfImage ws = r := by
  unfold rowOfWords at h
  split at h
  · split at h
    · rename_i hs hc; cases h; simp [rowOfImage, hs, hc]
    · cases h
  · cases h

/-- The rows' records, where every code names a value. -/
theorem rowsOfImage_of_rowsOfWords {n : Nat} {ws : List Word} {rows : List RowRecord}
    (h : rowsOfWords n ws = some rows) : rowsOfImage n ws = rows := by
  induction n generalizing ws rows with
  | zero => cases h; rfl
  | succ n ih =>
    unfold rowsOfWords at h
    split at h
    · rename_i hr hrest
      cases h
      rw [rowsOfImage, rowOfImage_of_rowOfWords hr, ih hrest]
    · cases h

/-- The words that R160 writes of a valid configuration are loaded as that configuration. -/
theorem configOfImage_of_configOfWords {ws : List Word} {c : WorkingConfig}
    (h : configOfWords ws = some c) : configOfImage ws = c := by
  unfold configOfWords at h
  split at h
  · rename_i hf hr
    dsimp only at h
    split at h
    · cases h
      rw [configOfImage, fillItemsOfImage_of_fillItemsOfWords hf, rowsOfImage_of_rowsOfWords hr]
    · cases h
  · cases h

end Sys2Proof.Machine
end

