-- ==== Sys2Proof/Laws/State.lean ====
section
/-! SUPPORT. Which fields of State each named update leaves as they are: one lemma per field, by rfl. -/

namespace Sys2Proof.Machine


/-! ### handOver -/

@[simp] theorem handOver_phase (h : Handover) (s : State) : (handOver h s).phase = s.phase := rfl
@[simp] theorem handOver_timeBase (h : Handover) (s : State) :
    (handOver h s).timeBase = s.timeBase := rfl
@[simp] theorem handOver_usPhase (h : Handover) (s : State) :
    (handOver h s).usPhase = s.usPhase := rfl
@[simp] theorem handOver_usCount (h : Handover) (s : State) :
    (handOver h s).usCount = s.usCount := rfl
@[simp] theorem handOver_seq (h : Handover) (s : State) : (handOver h s).seq = s.seq := rfl
@[simp] theorem handOver_lkt (h : Handover) (s : State) : (handOver h s).lkt = s.lkt := rfl
@[simp] theorem handOver_gov (h : Handover) (s : State) : (handOver h s).gov = s.gov := rfl
@[simp] theorem handOver_tnk (h : Handover) (s : State) : (handOver h s).tnk = s.tnk := rfl
@[simp] theorem handOver_spd (h : Handover) (s : State) : (handOver h s).spd = s.spd := rfl
@[simp] theorem handOver_cnv (h : Handover) (s : State) : (handOver h s).cnv = s.cnv := rfl
@[simp] theorem handOver_lio (h : Handover) (s : State) : (handOver h s).lio = s.lio := rfl
@[simp] theorem handOver_cfg (h : Handover) (s : State) : (handOver h s).cfg = s.cfg := rfl
@[simp] theorem handOver_ntq (h : Handover) (s : State) : (handOver h s).ntq = s.ntq := rfl
@[simp] theorem handOver_links (h : Handover) (s : State) : (handOver h s).links = s.links := rfl
@[simp] theorem handOver_pending (h : Handover) (s : State) :
    (handOver h s).pending = s.pending := rfl

/-! ### post -/

@[simp] theorem post_phase (x : UnitName) (k : NoticeKind) (n : Nat) (v : Word) (d : Addressee) (s : State) :
    (post x k n v d s).phase = s.phase := rfl
@[simp] theorem post_timeBase (x : UnitName) (k : NoticeKind) (n : Nat) (v : Word) (d : Addressee) (s : State) :
    (post x k n v d s).timeBase = s.timeBase := rfl
@[simp] theorem post_usPhase (x : UnitName) (k : NoticeKind) (n : Nat) (v : Word) (d : Addressee) (s : State) :
    (post x k n v d s).usPhase = s.usPhase := rfl
@[simp] theorem post_usCount (x : UnitName) (k : NoticeKind) (n : Nat) (v : Word) (d : Addressee) (s : State) :
    (post x k n v d s).usCount = s.usCount := rfl
@[simp] theorem post_seq (x : UnitName) (k : NoticeKind) (n : Nat) (v : Word) (d : Addressee) (s : State) :
    (post x k n v d s).seq = s.seq := rfl
@[simp] theorem post_lkt (x : UnitName) (k : NoticeKind) (n : Nat) (v : Word) (d : Addressee) (s : State) :
    (post x k n v d s).lkt = s.lkt := rfl
@[simp] theorem post_gov (x : UnitName) (k : NoticeKind) (n : Nat) (v : Word) (d : Addressee) (s : State) :
    (post x k n v d s).gov = s.gov := rfl
@[simp] theorem post_tnk (x : UnitName) (k : NoticeKind) (n : Nat) (v : Word) (d : Addressee) (s : State) :
    (post x k n v d s).tnk = s.tnk := rfl
@[simp] theorem post_spd (x : UnitName) (k : NoticeKind) (n : Nat) (v : Word) (d : Addressee) (s : State) :
    (post x k n v d s).spd = s.spd := rfl
@[simp] theorem post_cnv (x : UnitName) (k : NoticeKind) (n : Nat) (v : Word) (d : Addressee) (s : State) :
    (post x k n v d s).cnv = s.cnv := rfl
@[simp] theorem post_lio (x : UnitName) (k : NoticeKind) (n : Nat) (v : Word) (d : Addressee) (s : State) :
    (post x k n v d s).lio = s.lio := rfl
@[simp] theorem post_cfg (x : UnitName) (k : NoticeKind) (n : Nat) (v : Word) (d : Addressee) (s : State) :
    (post x k n v d s).cfg = s.cfg := rfl
@[simp] theorem post_ntq (x : UnitName) (k : NoticeKind) (n : Nat) (v : Word) (d : Addressee) (s : State) :
    (post x k n v d s).ntq = s.ntq := rfl
@[simp] theorem post_links (x : UnitName) (k : NoticeKind) (n : Nat) (v : Word) (d : Addressee) (s : State) :
    (post x k n v d s).links = s.links := rfl
@[simp] theorem post_pending (x : UnitName) (k : NoticeKind) (n : Nat) (v : Word) (d : Addressee) (s : State) :
    (post x k n v d s).pending = s.pending := rfl

/-! ### arrive -/

@[simp] theorem arrive_phase (x : UnitName) (c : Source) (v : Option Int) (s : State) :
    (arrive x c v s).phase = s.phase := rfl
@[simp] theorem arrive_timeBase (x : UnitName) (c : Source) (v : Option Int) (s : State) :
    (arrive x c v s).timeBase = s.timeBase := rfl
@[simp] theorem arrive_usPhase (x : UnitName) (c : Source) (v : Option Int) (s : State) :
    (arrive x c v s).usPhase = s.usPhase := rfl
@[simp] theorem arrive_usCount (x : UnitName) (c : Source) (v : Option Int) (s : State) :
    (arrive x c v s).usCount = s.usCount := rfl
@[simp] theorem arrive_seq (x : UnitName) (c : Source) (v : Option Int) (s : State) :
    (arrive x c v s).seq = s.seq := rfl
@[simp] theorem arrive_lkt (x : UnitName) (c : Source) (v : Option Int) (s : State) :
    (arrive x c v s).lkt = s.lkt := rfl
@[simp] theorem arrive_gov (x : UnitName) (c : Source) (v : Option Int) (s : State) :
    (arrive x c v s).gov = s.gov := rfl
@[simp] theorem arrive_tnk (x : UnitName) (c : Source) (v : Option Int) (s : State) :
    (arrive x c v s).tnk = s.tnk := rfl
@[simp] theorem arrive_spd (x : UnitName) (c : Source) (v : Option Int) (s : State) :
    (arrive x c v s).spd = s.spd := rfl
@[simp] theorem arrive_cnv (x : UnitName) (c : Source) (v : Option Int) (s : State) :
    (arrive x c v s).cnv = s.cnv := rfl
@[simp] theorem arrive_lio (x : UnitName) (c : Source) (v : Option Int) (s : State) :
    (arrive x c v s).lio = s.lio := rfl
@[simp] theorem arrive_cfg (x : UnitName) (c : Source) (v : Option Int) (s : State) :
    (arrive x c v s).cfg = s.cfg := rfl
@[simp] theorem arrive_ntq (x : UnitName) (c : Source) (v : Option Int) (s : State) :
    (arrive x c v s).ntq = s.ntq := rfl
@[simp] theorem arrive_links (x : UnitName) (c : Source) (v : Option Int) (s : State) :
    (arrive x c v s).links = s.links := rfl
@[simp] theorem arrive_pending (x : UnitName) (c : Source) (v : Option Int) (s : State) :
    (arrive x c v s).pending = s.pending := rfl

/-! ### postGovernor -/

@[simp] theorem postGovernor_phase (n : Nat) (v : Int) (s : State) :
    (postGovernor n v s).phase = s.phase := rfl
@[simp] theorem postGovernor_timeBase (n : Nat) (v : Int) (s : State) :
    (postGovernor n v s).timeBase = s.timeBase := rfl
@[simp] theorem postGovernor_usPhase (n : Nat) (v : Int) (s : State) :
    (postGovernor n v s).usPhase = s.usPhase := rfl
@[simp] theorem postGovernor_usCount (n : Nat) (v : Int) (s : State) :
    (postGovernor n v s).usCount = s.usCount := rfl
@[simp] theorem postGovernor_seq (n : Nat) (v : Int) (s : State) :
    (postGovernor n v s).seq = s.seq := rfl
@[simp] theorem postGovernor_lkt (n : Nat) (v : Int) (s : State) :
    (postGovernor n v s).lkt = s.lkt := rfl
@[simp] theorem postGovernor_gov (n : Nat) (v : Int) (s : State) :
    (postGovernor n v s).gov = s.gov := rfl
@[simp] theorem postGovernor_tnk (n : Nat) (v : Int) (s : State) :
    (postGovernor n v s).tnk = s.tnk := rfl
@[simp] theorem postGovernor_spd (n : Nat) (v : Int) (s : State) :
    (postGovernor n v s).spd = s.spd := rfl
@[simp] theorem postGovernor_cnv (n : Nat) (v : Int) (s : State) :
    (postGovernor n v s).cnv = s.cnv := rfl
@[simp] theorem postGovernor_lio (n : Nat) (v : Int) (s : State) :
    (postGovernor n v s).lio = s.lio := rfl
@[simp] theorem postGovernor_cfg (n : Nat) (v : Int) (s : State) :
    (postGovernor n v s).cfg = s.cfg := rfl
@[simp] theorem postGovernor_ntq (n : Nat) (v : Int) (s : State) :
    (postGovernor n v s).ntq = s.ntq := rfl
@[simp] theorem postGovernor_links (n : Nat) (v : Int) (s : State) :
    (postGovernor n v s).links = s.links := rfl
@[simp] theorem postGovernor_pending (n : Nat) (v : Int) (s : State) :
    (postGovernor n v s).pending = s.pending := rfl

/-! ### updateLink -/

@[simp] theorem updateLink_phase (p : Port) (f : Link → Link) (s : State) :
    (updateLink p f s).phase = s.phase := rfl
@[simp] theorem updateLink_timeBase (p : Port) (f : Link → Link) (s : State) :
    (updateLink p f s).timeBase = s.timeBase := rfl
@[simp] theorem updateLink_usPhase (p : Port) (f : Link → Link) (s : State) :
    (updateLink p f s).usPhase = s.usPhase := rfl
@[simp] theorem updateLink_usCount (p : Port) (f : Link → Link) (s : State) :
    (updateLink p f s).usCount = s.usCount := rfl
@[simp] theorem updateLink_seq (p : Port) (f : Link → Link) (s : State) :
    (updateLink p f s).seq = s.seq := rfl
@[simp] theorem updateLink_lkt (p : Port) (f : Link → Link) (s : State) :
    (updateLink p f s).lkt = s.lkt := rfl
@[simp] theorem updateLink_gov (p : Port) (f : Link → Link) (s : State) :
    (updateLink p f s).gov = s.gov := rfl
@[simp] theorem updateLink_tnk (p : Port) (f : Link → Link) (s : State) :
    (updateLink p f s).tnk = s.tnk := rfl
@[simp] theorem updateLink_spd (p : Port) (f : Link → Link) (s : State) :
    (updateLink p f s).spd = s.spd := rfl
@[simp] theorem updateLink_cnv (p : Port) (f : Link → Link) (s : State) :
    (updateLink p f s).cnv = s.cnv := rfl
@[simp] theorem updateLink_lio (p : Port) (f : Link → Link) (s : State) :
    (updateLink p f s).lio = s.lio := rfl
@[simp] theorem updateLink_cfg (p : Port) (f : Link → Link) (s : State) :
    (updateLink p f s).cfg = s.cfg := rfl
@[simp] theorem updateLink_ntq (p : Port) (f : Link → Link) (s : State) :
    (updateLink p f s).ntq = s.ntq := rfl
@[simp] theorem updateLink_hand (p : Port) (f : Link → Link) (s : State) :
    (updateLink p f s).hand = s.hand := rfl
@[simp] theorem updateLink_pending (p : Port) (f : Link → Link) (s : State) :
    (updateLink p f s).pending = s.pending := rfl

/-! ### fixAnswer -/

@[simp] theorem fixAnswer_phase (p : Port) (a : Answer) (s : State) :
    (fixAnswer p a s).phase = s.phase := rfl
@[simp] theorem fixAnswer_timeBase (p : Port) (a : Answer) (s : State) :
    (fixAnswer p a s).timeBase = s.timeBase := rfl
@[simp] theorem fixAnswer_usPhase (p : Port) (a : Answer) (s : State) :
    (fixAnswer p a s).usPhase = s.usPhase := rfl
@[simp] theorem fixAnswer_usCount (p : Port) (a : Answer) (s : State) :
    (fixAnswer p a s).usCount = s.usCount := rfl
@[simp] theorem fixAnswer_seq (p : Port) (a : Answer) (s : State) :
    (fixAnswer p a s).seq = s.seq := rfl
@[simp] theorem fixAnswer_lkt (p : Port) (a : Answer) (s : State) :
    (fixAnswer p a s).lkt = s.lkt := rfl
@[simp] theorem fixAnswer_gov (p : Port) (a : Answer) (s : State) :
    (fixAnswer p a s).gov = s.gov := rfl
@[simp] theorem fixAnswer_tnk (p : Port) (a : Answer) (s : State) :
    (fixAnswer p a s).tnk = s.tnk := rfl
@[simp] theorem fixAnswer_spd (p : Port) (a : Answer) (s : State) :
    (fixAnswer p a s).spd = s.spd := rfl
@[simp] theorem fixAnswer_cnv (p : Port) (a : Answer) (s : State) :
    (fixAnswer p a s).cnv = s.cnv := rfl
@[simp] theorem fixAnswer_lio (p : Port) (a : Answer) (s : State) :
    (fixAnswer p a s).lio = s.lio := rfl
@[simp] theorem fixAnswer_cfg (p : Port) (a : Answer) (s : State) :
    (fixAnswer p a s).cfg = s.cfg := rfl
@[simp] theorem fixAnswer_ntq (p : Port) (a : Answer) (s : State) :
    (fixAnswer p a s).ntq = s.ntq := rfl
@[simp] theorem fixAnswer_hand (p : Port) (a : Answer) (s : State) :
    (fixAnswer p a s).hand = s.hand := rfl
@[simp] theorem fixAnswer_pending (p : Port) (a : Answer) (s : State) :
    (fixAnswer p a s).pending = s.pending := rfl

/-! ### updateNtq -/

@[simp] theorem updateNtq_phase (p : Port) (f : NtqPort → NtqPort) (s : State) :
    (updateNtq p f s).phase = s.phase := rfl
@[simp] theorem updateNtq_timeBase (p : Port) (f : NtqPort → NtqPort) (s : State) :
    (updateNtq p f s).timeBase = s.timeBase := rfl
@[simp] theorem updateNtq_usPhase (p : Port) (f : NtqPort → NtqPort) (s : State) :
    (updateNtq p f s).usPhase = s.usPhase := rfl
@[simp] theorem updateNtq_usCount (p : Port) (f : NtqPort → NtqPort) (s : State) :
    (updateNtq p f s).usCount = s.usCount := rfl
@[simp] theorem updateNtq_seq (p : Port) (f : NtqPort → NtqPort) (s : State) :
    (updateNtq p f s).seq = s.seq := rfl
@[simp] theorem updateNtq_lkt (p : Port) (f : NtqPort → NtqPort) (s : State) :
    (updateNtq p f s).lkt = s.lkt := rfl
@[simp] theorem updateNtq_gov (p : Port) (f : NtqPort → NtqPort) (s : State) :
    (updateNtq p f s).gov = s.gov := rfl
@[simp] theorem updateNtq_tnk (p : Port) (f : NtqPort → NtqPort) (s : State) :
    (updateNtq p f s).tnk = s.tnk := rfl
@[simp] theorem updateNtq_spd (p : Port) (f : NtqPort → NtqPort) (s : State) :
    (updateNtq p f s).spd = s.spd := rfl
@[simp] theorem updateNtq_cnv (p : Port) (f : NtqPort → NtqPort) (s : State) :
    (updateNtq p f s).cnv = s.cnv := rfl
@[simp] theorem updateNtq_lio (p : Port) (f : NtqPort → NtqPort) (s : State) :
    (updateNtq p f s).lio = s.lio := rfl
@[simp] theorem updateNtq_cfg (p : Port) (f : NtqPort → NtqPort) (s : State) :
    (updateNtq p f s).cfg = s.cfg := rfl
@[simp] theorem updateNtq_links (p : Port) (f : NtqPort → NtqPort) (s : State) :
    (updateNtq p f s).links = s.links := rfl
@[simp] theorem updateNtq_hand (p : Port) (f : NtqPort → NtqPort) (s : State) :
    (updateNtq p f s).hand = s.hand := rfl
@[simp] theorem updateNtq_pending (p : Port) (f : NtqPort → NtqPort) (s : State) :
    (updateNtq p f s).pending = s.pending := rfl

/-! ### addCauseAll -/

@[simp] theorem addCauseAll_phase (c : ResetCause) (s : State) :
    (addCauseAll c s).phase = s.phase := rfl
@[simp] theorem addCauseAll_timeBase (c : ResetCause) (s : State) :
    (addCauseAll c s).timeBase = s.timeBase := rfl
@[simp] theorem addCauseAll_usPhase (c : ResetCause) (s : State) :
    (addCauseAll c s).usPhase = s.usPhase := rfl
@[simp] theorem addCauseAll_usCount (c : ResetCause) (s : State) :
    (addCauseAll c s).usCount = s.usCount := rfl
@[simp] theorem addCauseAll_seq (c : ResetCause) (s : State) : (addCauseAll c s).seq = s.seq := rfl
@[simp] theorem addCauseAll_lkt (c : ResetCause) (s : State) : (addCauseAll c s).lkt = s.lkt := rfl
@[simp] theorem addCauseAll_gov (c : ResetCause) (s : State) : (addCauseAll c s).gov = s.gov := rfl
@[simp] theorem addCauseAll_tnk (c : ResetCause) (s : State) : (addCauseAll c s).tnk = s.tnk := rfl
@[simp] theorem addCauseAll_spd (c : ResetCause) (s : State) : (addCauseAll c s).spd = s.spd := rfl
@[simp] theorem addCauseAll_cnv (c : ResetCause) (s : State) : (addCauseAll c s).cnv = s.cnv := rfl
@[simp] theorem addCauseAll_lio (c : ResetCause) (s : State) : (addCauseAll c s).lio = s.lio := rfl
@[simp] theorem addCauseAll_cfg (c : ResetCause) (s : State) : (addCauseAll c s).cfg = s.cfg := rfl
@[simp] theorem addCauseAll_links (c : ResetCause) (s : State) :
    (addCauseAll c s).links = s.links := rfl
@[simp] theorem addCauseAll_hand (c : ResetCause) (s : State) :
    (addCauseAll c s).hand = s.hand := rfl
@[simp] theorem addCauseAll_pending (c : ResetCause) (s : State) :
    (addCauseAll c s).pending = s.pending := rfl

/-! ### openRequest -/

@[simp] theorem openRequest_phase (p : Port) (k : OperationKind) (s : State) :
    (openRequest p k s).phase = s.phase := rfl
@[simp] theorem openRequest_timeBase (p : Port) (k : OperationKind) (s : State) :
    (openRequest p k s).timeBase = s.timeBase := rfl
@[simp] theorem openRequest_usPhase (p : Port) (k : OperationKind) (s : State) :
    (openRequest p k s).usPhase = s.usPhase := rfl
@[simp] theorem openRequest_usCount (p : Port) (k : OperationKind) (s : State) :
    (openRequest p k s).usCount = s.usCount := rfl
@[simp] theorem openRequest_lkt (p : Port) (k : OperationKind) (s : State) :
    (openRequest p k s).lkt = s.lkt := rfl
@[simp] theorem openRequest_gov (p : Port) (k : OperationKind) (s : State) :
    (openRequest p k s).gov = s.gov := rfl
@[simp] theorem openRequest_tnk (p : Port) (k : OperationKind) (s : State) :
    (openRequest p k s).tnk = s.tnk := rfl
@[simp] theorem openRequest_spd (p : Port) (k : OperationKind) (s : State) :
    (openRequest p k s).spd = s.spd := rfl
@[simp] theorem openRequest_cnv (p : Port) (k : OperationKind) (s : State) :
    (openRequest p k s).cnv = s.cnv := rfl
@[simp] theorem openRequest_lio (p : Port) (k : OperationKind) (s : State) :
    (openRequest p k s).lio = s.lio := rfl
@[simp] theorem openRequest_cfg (p : Port) (k : OperationKind) (s : State) :
    (openRequest p k s).cfg = s.cfg := rfl
@[simp] theorem openRequest_ntq (p : Port) (k : OperationKind) (s : State) :
    (openRequest p k s).ntq = s.ntq := rfl
@[simp] theorem openRequest_links (p : Port) (k : OperationKind) (s : State) :
    (openRequest p k s).links = s.links := rfl
@[simp] theorem openRequest_hand (p : Port) (k : OperationKind) (s : State) :
    (openRequest p k s).hand = s.hand := rfl
@[simp] theorem openRequest_pending (p : Port) (k : OperationKind) (s : State) :
    (openRequest p k s).pending = s.pending := rfl

/-! ### takeValue -/

@[simp] theorem takeValue_phase (x : Source) (v : Option Int) (s : State) :
    (takeValue x v s).phase = s.phase := rfl
@[simp] theorem takeValue_timeBase (x : Source) (v : Option Int) (s : State) :
    (takeValue x v s).timeBase = s.timeBase := rfl
@[simp] theorem takeValue_usPhase (x : Source) (v : Option Int) (s : State) :
    (takeValue x v s).usPhase = s.usPhase := rfl
@[simp] theorem takeValue_usCount (x : Source) (v : Option Int) (s : State) :
    (takeValue x v s).usCount = s.usCount := rfl
@[simp] theorem takeValue_seq (x : Source) (v : Option Int) (s : State) :
    (takeValue x v s).seq = s.seq := rfl
@[simp] theorem takeValue_gov (x : Source) (v : Option Int) (s : State) :
    (takeValue x v s).gov = s.gov := rfl
@[simp] theorem takeValue_tnk (x : Source) (v : Option Int) (s : State) :
    (takeValue x v s).tnk = s.tnk := rfl
@[simp] theorem takeValue_spd (x : Source) (v : Option Int) (s : State) :
    (takeValue x v s).spd = s.spd := rfl
@[simp] theorem takeValue_cnv (x : Source) (v : Option Int) (s : State) :
    (takeValue x v s).cnv = s.cnv := rfl
@[simp] theorem takeValue_lio (x : Source) (v : Option Int) (s : State) :
    (takeValue x v s).lio = s.lio := rfl
@[simp] theorem takeValue_cfg (x : Source) (v : Option Int) (s : State) :
    (takeValue x v s).cfg = s.cfg := rfl
@[simp] theorem takeValue_ntq (x : Source) (v : Option Int) (s : State) :
    (takeValue x v s).ntq = s.ntq := rfl
@[simp] theorem takeValue_links (x : Source) (v : Option Int) (s : State) :
    (takeValue x v s).links = s.links := rfl
@[simp] theorem takeValue_hand (x : Source) (v : Option Int) (s : State) :
    (takeValue x v s).hand = s.hand := rfl
@[simp] theorem takeValue_pending (x : Source) (v : Option Int) (s : State) :
    (takeValue x v s).pending = s.pending := rfl

/-! ### commandTankValve -/

@[simp] theorem commandTankValve_phase (s : State) : (commandTankValve s).phase = s.phase := rfl
@[simp] theorem commandTankValve_timeBase (s : State) :
    (commandTankValve s).timeBase = s.timeBase := rfl
@[simp] theorem commandTankValve_usPhase (s : State) :
    (commandTankValve s).usPhase = s.usPhase := rfl
@[simp] theorem commandTankValve_usCount (s : State) :
    (commandTankValve s).usCount = s.usCount := rfl
@[simp] theorem commandTankValve_seq (s : State) : (commandTankValve s).seq = s.seq := rfl
@[simp] theorem commandTankValve_lkt (s : State) : (commandTankValve s).lkt = s.lkt := rfl
@[simp] theorem commandTankValve_gov (s : State) : (commandTankValve s).gov = s.gov := rfl
@[simp] theorem commandTankValve_spd (s : State) : (commandTankValve s).spd = s.spd := rfl
@[simp] theorem commandTankValve_cnv (s : State) : (commandTankValve s).cnv = s.cnv := rfl
@[simp] theorem commandTankValve_lio (s : State) : (commandTankValve s).lio = s.lio := rfl
@[simp] theorem commandTankValve_cfg (s : State) : (commandTankValve s).cfg = s.cfg := rfl
@[simp] theorem commandTankValve_ntq (s : State) : (commandTankValve s).ntq = s.ntq := rfl
@[simp] theorem commandTankValve_links (s : State) : (commandTankValve s).links = s.links := rfl
@[simp] theorem commandTankValve_hand (s : State) : (commandTankValve s).hand = s.hand := rfl
@[simp] theorem commandTankValve_pending (s : State) :
    (commandTankValve s).pending = s.pending := rfl

/-! ### startGate -/

@[simp] theorem startGate_phase (s : State) : (startGate s).phase = s.phase := rfl
@[simp] theorem startGate_timeBase (s : State) : (startGate s).timeBase = s.timeBase := rfl
@[simp] theorem startGate_usPhase (s : State) : (startGate s).usPhase = s.usPhase := rfl
@[simp] theorem startGate_usCount (s : State) : (startGate s).usCount = s.usCount := rfl
@[simp] theorem startGate_seq (s : State) : (startGate s).seq = s.seq := rfl
@[simp] theorem startGate_lkt (s : State) : (startGate s).lkt = s.lkt := rfl
@[simp] theorem startGate_gov (s : State) : (startGate s).gov = s.gov := rfl
@[simp] theorem startGate_tnk (s : State) : (startGate s).tnk = s.tnk := rfl
@[simp] theorem startGate_spd (s : State) : (startGate s).spd = s.spd := rfl
@[simp] theorem startGate_cnv (s : State) : (startGate s).cnv = s.cnv := rfl
@[simp] theorem startGate_cfg (s : State) : (startGate s).cfg = s.cfg := rfl
@[simp] theorem startGate_ntq (s : State) : (startGate s).ntq = s.ntq := rfl
@[simp] theorem startGate_links (s : State) : (startGate s).links = s.links := rfl
@[simp] theorem startGate_hand (s : State) : (startGate s).hand = s.hand := rfl
@[simp] theorem startGate_pending (s : State) : (startGate s).pending = s.pending := rfl

/-! ### startPwm -/

@[simp] theorem startPwm_phase (s : State) : (startPwm s).phase = s.phase := rfl
@[simp] theorem startPwm_timeBase (s : State) : (startPwm s).timeBase = s.timeBase := rfl
@[simp] theorem startPwm_usPhase (s : State) : (startPwm s).usPhase = s.usPhase := rfl
@[simp] theorem startPwm_usCount (s : State) : (startPwm s).usCount = s.usCount := rfl
@[simp] theorem startPwm_seq (s : State) : (startPwm s).seq = s.seq := rfl
@[simp] theorem startPwm_lkt (s : State) : (startPwm s).lkt = s.lkt := rfl
@[simp] theorem startPwm_gov (s : State) : (startPwm s).gov = s.gov := rfl
@[simp] theorem startPwm_tnk (s : State) : (startPwm s).tnk = s.tnk := rfl
@[simp] theorem startPwm_spd (s : State) : (startPwm s).spd = s.spd := rfl
@[simp] theorem startPwm_cnv (s : State) : (startPwm s).cnv = s.cnv := rfl
@[simp] theorem startPwm_cfg (s : State) : (startPwm s).cfg = s.cfg := rfl
@[simp] theorem startPwm_ntq (s : State) : (startPwm s).ntq = s.ntq := rfl
@[simp] theorem startPwm_links (s : State) : (startPwm s).links = s.links := rfl
@[simp] theorem startPwm_hand (s : State) : (startPwm s).hand = s.hand := rfl
@[simp] theorem startPwm_pending (s : State) : (startPwm s).pending = s.pending := rfl

/-! ### startScan -/

@[simp] theorem startScan_phase (s : State) : (startScan s).phase = s.phase := rfl
@[simp] theorem startScan_timeBase (s : State) : (startScan s).timeBase = s.timeBase := rfl
@[simp] theorem startScan_usPhase (s : State) : (startScan s).usPhase = s.usPhase := rfl
@[simp] theorem startScan_usCount (s : State) : (startScan s).usCount = s.usCount := rfl
@[simp] theorem startScan_seq (s : State) : (startScan s).seq = s.seq := rfl
@[simp] theorem startScan_lkt (s : State) : (startScan s).lkt = s.lkt := rfl
@[simp] theorem startScan_gov (s : State) : (startScan s).gov = s.gov := rfl
@[simp] theorem startScan_tnk (s : State) : (startScan s).tnk = s.tnk := rfl
@[simp] theorem startScan_spd (s : State) : (startScan s).spd = s.spd := rfl
@[simp] theorem startScan_lio (s : State) : (startScan s).lio = s.lio := rfl
@[simp] theorem startScan_cfg (s : State) : (startScan s).cfg = s.cfg := rfl
@[simp] theorem startScan_ntq (s : State) : (startScan s).ntq = s.ntq := rfl
@[simp] theorem startScan_links (s : State) : (startScan s).links = s.links := rfl
@[simp] theorem startScan_hand (s : State) : (startScan s).hand = s.hand := rfl
@[simp] theorem startScan_pending (s : State) : (startScan s).pending = s.pending := rfl

/-! ### dropStaging -/

@[simp] theorem dropStaging_phase (p : Port) (s : State) : (dropStaging p s).phase = s.phase := rfl
@[simp] theorem dropStaging_timeBase (p : Port) (s : State) :
    (dropStaging p s).timeBase = s.timeBase := rfl
@[simp] theorem dropStaging_usPhase (p : Port) (s : State) :
    (dropStaging p s).usPhase = s.usPhase := rfl
@[simp] theorem dropStaging_usCount (p : Port) (s : State) :
    (dropStaging p s).usCount = s.usCount := rfl
@[simp] theorem dropStaging_seq (p : Port) (s : State) : (dropStaging p s).seq = s.seq := rfl
@[simp] theorem dropStaging_lkt (p : Port) (s : State) : (dropStaging p s).lkt = s.lkt := rfl
@[simp] theorem dropStaging_gov (p : Port) (s : State) : (dropStaging p s).gov = s.gov := rfl
@[simp] theorem dropStaging_tnk (p : Port) (s : State) : (dropStaging p s).tnk = s.tnk := rfl
@[simp] theorem dropStaging_spd (p : Port) (s : State) : (dropStaging p s).spd = s.spd := rfl
@[simp] theorem dropStaging_cnv (p : Port) (s : State) : (dropStaging p s).cnv = s.cnv := rfl
@[simp] theorem dropStaging_lio (p : Port) (s : State) : (dropStaging p s).lio = s.lio := rfl
@[simp] theorem dropStaging_ntq (p : Port) (s : State) : (dropStaging p s).ntq = s.ntq := rfl
@[simp] theorem dropStaging_links (p : Port) (s : State) : (dropStaging p s).links = s.links := rfl
@[simp] theorem dropStaging_hand (p : Port) (s : State) : (dropStaging p s).hand = s.hand := rfl
@[simp] theorem dropStaging_pending (p : Port) (s : State) :
    (dropStaging p s).pending = s.pending := rfl

/-! ### keepStaging -/

@[simp] theorem keepStaging_phase (p : Port) (x : Staging) (s : State) :
    (keepStaging p x s).phase = s.phase := rfl
@[simp] theorem keepStaging_timeBase (p : Port) (x : Staging) (s : State) :
    (keepStaging p x s).timeBase = s.timeBase := rfl
@[simp] theorem keepStaging_usPhase (p : Port) (x : Staging) (s : State) :
    (keepStaging p x s).usPhase = s.usPhase := rfl
@[simp] theorem keepStaging_usCount (p : Port) (x : Staging) (s : State) :
    (keepStaging p x s).usCount = s.usCount := rfl
@[simp] theorem keepStaging_seq (p : Port) (x : Staging) (s : State) :
    (keepStaging p x s).seq = s.seq := rfl
@[simp] theorem keepStaging_lkt (p : Port) (x : Staging) (s : State) :
    (keepStaging p x s).lkt = s.lkt := rfl
@[simp] theorem keepStaging_gov (p : Port) (x : Staging) (s : State) :
    (keepStaging p x s).gov = s.gov := rfl
@[simp] theorem keepStaging_tnk (p : Port) (x : Staging) (s : State) :
    (keepStaging p x s).tnk = s.tnk := rfl
@[simp] theorem keepStaging_spd (p : Port) (x : Staging) (s : State) :
    (keepStaging p x s).spd = s.spd := rfl
@[simp] theorem keepStaging_cnv (p : Port) (x : Staging) (s : State) :
    (keepStaging p x s).cnv = s.cnv := rfl
@[simp] theorem keepStaging_lio (p : Port) (x : Staging) (s : State) :
    (keepStaging p x s).lio = s.lio := rfl
@[simp] theorem keepStaging_ntq (p : Port) (x : Staging) (s : State) :
    (keepStaging p x s).ntq = s.ntq := rfl
@[simp] theorem keepStaging_links (p : Port) (x : Staging) (s : State) :
    (keepStaging p x s).links = s.links := rfl
@[simp] theorem keepStaging_hand (p : Port) (x : Staging) (s : State) :
    (keepStaging p x s).hand = s.hand := rfl
@[simp] theorem keepStaging_pending (p : Port) (x : Staging) (s : State) :
    (keepStaging p x s).pending = s.pending := rfl

/-! ### beginStore -/

@[simp] theorem beginStore_phase (s : State) : (beginStore s).phase = s.phase := rfl
@[simp] theorem beginStore_timeBase (s : State) : (beginStore s).timeBase = s.timeBase := rfl
@[simp] theorem beginStore_usPhase (s : State) : (beginStore s).usPhase = s.usPhase := rfl
@[simp] theorem beginStore_usCount (s : State) : (beginStore s).usCount = s.usCount := rfl
@[simp] theorem beginStore_seq (s : State) : (beginStore s).seq = s.seq := rfl
@[simp] theorem beginStore_lkt (s : State) : (beginStore s).lkt = s.lkt := rfl
@[simp] theorem beginStore_gov (s : State) : (beginStore s).gov = s.gov := rfl
@[simp] theorem beginStore_tnk (s : State) : (beginStore s).tnk = s.tnk := rfl
@[simp] theorem beginStore_spd (s : State) : (beginStore s).spd = s.spd := rfl
@[simp] theorem beginStore_cnv (s : State) : (beginStore s).cnv = s.cnv := rfl
@[simp] theorem beginStore_lio (s : State) : (beginStore s).lio = s.lio := rfl
@[simp] theorem beginStore_ntq (s : State) : (beginStore s).ntq = s.ntq := rfl
@[simp] theorem beginStore_links (s : State) : (beginStore s).links = s.links := rfl
@[simp] theorem beginStore_hand (s : State) : (beginStore s).hand = s.hand := rfl
@[simp] theorem beginStore_pending (s : State) : (beginStore s).pending = s.pending := rfl

/-! ### advance: time changes the three counts alone -/

@[simp] theorem advance_phase (dt : Nat) (s : State) : (advance dt s).phase = s.phase := by
  unfold advance; split <;> rfl
@[simp] theorem advance_seq (dt : Nat) (s : State) : (advance dt s).seq = s.seq := by
  unfold advance; split <;> rfl
@[simp] theorem advance_lkt (dt : Nat) (s : State) : (advance dt s).lkt = s.lkt := by
  unfold advance; split <;> rfl
@[simp] theorem advance_gov (dt : Nat) (s : State) : (advance dt s).gov = s.gov := by
  unfold advance; split <;> rfl
@[simp] theorem advance_tnk (dt : Nat) (s : State) : (advance dt s).tnk = s.tnk := by
  unfold advance; split <;> rfl
@[simp] theorem advance_spd (dt : Nat) (s : State) : (advance dt s).spd = s.spd := by
  unfold advance; split <;> rfl
@[simp] theorem advance_cnv (dt : Nat) (s : State) : (advance dt s).cnv = s.cnv := by
  unfold advance; split <;> rfl
@[simp] theorem advance_lio (dt : Nat) (s : State) : (advance dt s).lio = s.lio := by
  unfold advance; split <;> rfl
@[simp] theorem advance_cfg (dt : Nat) (s : State) : (advance dt s).cfg = s.cfg := by
  unfold advance; split <;> rfl
@[simp] theorem advance_ntq (dt : Nat) (s : State) : (advance dt s).ntq = s.ntq := by
  unfold advance; split <;> rfl
@[simp] theorem advance_links (dt : Nat) (s : State) : (advance dt s).links = s.links := by
  unfold advance; split <;> rfl
@[simp] theorem advance_hand (dt : Nat) (s : State) : (advance dt s).hand = s.hand := by
  unfold advance; split <;> rfl
@[simp] theorem advance_pending (dt : Nat) (s : State) : (advance dt s).pending = s.pending := by
  unfold advance; split <;> rfl

/-! ### The queues that hand-overs wait in -/

@[simp] theorem handOver_hand (h : Handover) (s : State) : (handOver h s).hand = s.hand ++ [h] := rfl

@[simp] theorem arrive_hand (x : UnitName) (c : Source) (v : Option Int) (s : State) :
    (arrive x c v s).hand = s.hand ++ [.arrival x c v] := rfl

/-! ### Ports -/

@[simp] theorem portGet_portSet_same {α : Type} (m : PerPort α) (p : Port) (a : α) :
    portGet (portSet m p a) p = a := by cases p <;> rfl

theorem portGet_portSet_ne {α : Type} (m : PerPort α) {p q : Port} (h : q ≠ p) (a : α) :
    portGet (portSet m p a) q = portGet m q := by
  cases p <;> cases q <;> first | rfl | exact absurd rfl h

@[simp] theorem portSet_portGet {α : Type} (m : PerPort α) (p : Port) :
    portSet m p (portGet m p) = m := by cases p <;> rfl

@[simp] theorem portSet_portSet {α : Type} (m : PerPort α) (p : Port) (a b : α) :
    portSet (portSet m p a) p b = portSet m p b := by cases p <;> rfl

/-! ### The input word -/

@[simp] theorem wordFeedback_inputWord (u : Inputs) :
    wordFeedback (inputWord u) = u.ptoFeedback.debounced := by
  unfold wordFeedback inputWord bit
  cases u.parkBrake.debounced <;> cases u.neutralSense.debounced <;>
    cases u.ptoFeedback.debounced <;> cases u.panelStop.debounced <;> decide

@[simp] theorem wordSecured_inputWord (u : Inputs) :
    wordSecured (inputWord u) = (u.parkBrake.debounced && u.neutralSense.debounced) := by
  unfold wordSecured inputWord bit
  cases u.parkBrake.debounced <;> cases u.neutralSense.debounced <;>
    cases u.ptoFeedback.debounced <;> cases u.panelStop.debounced <;> decide

/-! ### Lists -/

@[simp] theorem replaceAt_length {α : Type} (l : List α) (i : Nat) (a : α) :
    (replaceAt l i a).length = l.length := by
  induction l generalizing i with
  | nil => rfl
  | cons b l ih => cases i <;> simp [replaceAt, ih]

theorem replaceAt_getD {α : Type} (l : List α) (i j : Nat) (a d : α) :
    (replaceAt l i a).getD j d = if i = j ∧ i < l.length then a else l.getD j d := by
  induction l generalizing i j with
  | nil => simp [replaceAt]
  | cons b l ih =>
    cases i with
    | zero => cases j <;> simp [replaceAt]
    | succ i =>
      cases j with
      | zero => simp [replaceAt]
      | succ j => simpa [replaceAt] using ih i j

theorem replaceAt_eq_set {α : Type} (l : List α) (i : Nat) (a : α) :
    replaceAt l i a = l.set i a := by
  induction l generalizing i with
  | nil => simp [replaceAt]
  | cons b l ih => cases i <;> simp [replaceAt, ih]

end Sys2Proof.Machine
end

