-- ==== Sys2Proof/Laws/Still.lean ====
section
/-! SUPPORT. What the hand-overs between units cannot change: the still part of a state, through every
operation that a hand-over calls and through `settle`. -/

namespace Sys2Proof.Machine

@[simp] theorem still_handOver (h s) : still (handOver h s) = still s := rfl
@[simp] theorem still_post (a b c d e s) : still (post a b c d e s) = still s := rfl
@[simp] theorem still_arrive (a b c s) : still (arrive a b c s) = still s := rfl
@[simp] theorem still_seq (s : State) (x) : still { s with seq := x } = still s := rfl
@[simp] theorem still_lkt (s : State) (x) : still { s with lkt := x } = still s := rfl
@[simp] theorem still_gov (s : State) (x) : still { s with gov := x } = still s := rfl
@[simp] theorem still_tnk (s : State) (x) : still { s with tnk := x } = still s := rfl
@[simp] theorem still_hand (s : State) (x) : still { s with hand := x } = still s := rfl
theorem still_demand (s : State) (g d) : still { s with gov := g, lio := { s.lio with throttle := commandThrottle d s.lio.throttle } } = still s := rfl

@[simp] theorem still_transition (m sub why s) : still (transition m sub why s) = still s := by
  unfold transition; dsimp only; split <;> simp
@[simp] theorem still_postOutcome (a b s) : still (postOutcome a b s) = still s := by
  unfold postOutcome; split <;> simp
@[simp] theorem still_closeRequest (a s) : still (closeRequest a s) = still s := by
  simp [closeRequest]
@[simp] theorem still_openRequest (a b s) : still (openRequest a b s) = still s := by simp [openRequest]
@[simp] theorem still_rederive (s) : still (rederive s) = still s := by unfold rederive; split <;> simp
@[simp] theorem still_completeRelease (s) : still (completeRelease s) = still s := by simp [completeRelease]
@[simp] theorem still_startRelease (s) : still (startRelease s) = still s := rfl
@[simp] theorem still_releaseEntry (s) : still (releaseEntry s) = still s := by
  unfold releaseEntry; split <;> simp
@[simp] theorem still_enterRelease (a s) : still (enterRelease a s) = still s := by simp [enterRelease]
@[simp] theorem still_leaveShift (a b s) : still (leaveShift a b s) = still s := by simp [leaveShift]
@[simp] theorem still_abandonShift (a b s) : still (abandonShift a b s) = still s := by simp [abandonShift]
@[simp] theorem still_expireShift (s) : still (expireShift s) = still s := by
  unfold expireShift; dsimp only; split <;> simp
@[simp] theorem still_spinDownEntry (s) : still (spinDownEntry s) = still s := by
  unfold spinDownEntry; dsimp only; split <;> simp
@[simp] theorem still_enterSpinDown (a s) : still (enterSpinDown a s) = still s := by simp [enterSpinDown]
@[simp] theorem still_actOnPtoBlock (s) : still (actOnPtoBlock s) = still s := by
  unfold actOnPtoBlock; split <;> [split <;> simp; rfl]
@[simp] theorem still_completeShift (s) : still (completeShift s) = still s := by simp [completeShift]
@[simp] theorem still_seqTakesWord (n s) : still (seqTakesWord n s) = still s := by
  unfold seqTakesWord; repeat' split
  all_goals simp
@[simp] theorem still_seqTakesRelease (s) : still (seqTakesRelease s) = still s := by
  unfold seqTakesRelease; split <;> simp
@[simp] theorem still_seqTakesPump (n s) : still (seqTakesPump n s) = still s := by
  unfold seqTakesPump; split <;> simp
@[simp] theorem still_seqTakesBlocks (n s) : still (seqTakesBlocks n s) = still s := by
  simp [seqTakesBlocks]
@[simp] theorem still_treatRow (a b s i) : still (treatRow a b s i) = still s := rfl
theorem still_foldl {α} (f : State → α → State) (h : ∀ s a, still (f s a) = still s) (l : List α) (s) :
    still (l.foldl f s) = still s := by
  induction l generalizing s with
  | nil => rfl
  | cons a l ih => simp [ih, h]
@[simp] theorem still_treatRows (ev s) : still (treatRows ev s) = still s :=
  still_foldl _ (fun s i => still_treatRow _ _ s i) _ _
@[simp] theorem still_noticeRow (a s i) : still (noticeRow a s i) = still s := by
  unfold noticeRow; split <;> simp
@[simp] theorem still_noticeRows (b s) : still (noticeRows b s) = still s :=
  still_foldl _ (fun s i => still_noticeRow _ s i) _ _
@[simp] theorem still_deriveBlocks (s) : still (deriveBlocks s) = still s := by
  unfold deriveBlocks; dsimp only; split <;> simp
@[simp] theorem still_handleRows (ev s) : still (handleRows ev s) = still s := by simp [handleRows]
@[simp] theorem still_setDemand (d s) : still (setDemand d s) = still s := by
  unfold setDemand; split
  · rfl
  · simp [still_demand]
@[simp] theorem still_applyCeiling (s) : still (applyCeiling s) = still s := by simp [applyCeiling]
@[simp] theorem still_postGovernor (a b s) : still (postGovernor a b s) = still s := rfl
@[simp] theorem still_leaveRamp (a s) : still (leaveRamp a s) = still s := by simp [leaveRamp]
@[simp] theorem still_watchOff (s) : still (watchOff s) = still s := by
  unfold watchOff; split <;> simp
@[simp] theorem still_setWatch (s) : still (setWatch s) = still s := by
  unfold setWatch; split <;> simp
@[simp] theorem still_govTakesIntake (a b s) : still (govTakesIntake a b s) = still s := by
  unfold govTakesIntake; dsimp only; repeat' split
  all_goals simp
@[simp] theorem still_governorUpdate (a s) : still (governorUpdate a s) = still s := by
  unfold governorUpdate rampIntake; dsimp only; split <;> simp
@[simp] theorem still_fallbackCheck (a s) : still (fallbackCheck a s) = still s := by
  unfold fallbackCheck; dsimp only; split <;> simp
@[simp] theorem still_govTakesDischarge (a b s) : still (govTakesDischarge a b s) = still s := by
  unfold govTakesDischarge; split <;> simp
@[simp] theorem still_govTakesMode (a s) : still (govTakesMode a s) = still s := by
  unfold govTakesMode; dsimp only; repeat' split
  all_goals simp
@[simp] theorem still_govTakesBlocks (a s) : still (govTakesBlocks a s) = still s := by
  unfold govTakesBlocks; dsimp only; split <;> simp
@[simp] theorem still_govTakesSupply (a s) : still (govTakesSupply a s) = still s := by simp [govTakesSupply]
@[simp] theorem still_commandTankValve (s) : still (commandTankValve s) = still s := rfl
@[simp] theorem still_endFill (a b s) : still (endFill a b s) = still s := by
  unfold endFill; split <;> simp
@[simp] theorem still_suspendStall (s) : still (suspendStall s) = still s := by
  unfold suspendStall; repeat' split
  all_goals simp
@[simp] theorem still_stallCheck (s) : still (stallCheck s) = still s := by
  unfold stallCheck; repeat' split
  all_goals simp
@[simp] theorem still_checkFill (s) : still (checkFill s) = still s := by
  unfold checkFill; repeat' split
  all_goals simp
@[simp] theorem still_checkGauges (l s) : still (checkGauges l s) = still s := by
  unfold checkGauges; dsimp only; repeat' split
  all_goals simp
@[simp] theorem still_checkGaugesIf (l s) : still (checkGaugesIf l s) = still s := by
  unfold checkGaugesIf; split <;> simp
@[simp] theorem still_handTank (a b c d e f s) : still (handTank a b c d e f s) = still s := by
  unfold handTank; dsimp only; repeat' split
  all_goals simp
@[simp] theorem still_tnkTakesLevel (a b c s) : still (tnkTakesLevel a b c s) = still s := by
  unfold tnkTakesLevel; dsimp only; split <;> simp [recomputeTank0, recomputeTank1]
@[simp] theorem still_tnkTakesMode (a s) : still (tnkTakesMode a s) = still s := by
  unfold tnkTakesMode; dsimp only; split <;> simp
@[simp] theorem still_tnkTakesBlocks (a s) : still (tnkTakesBlocks a s) = still s := by
  unfold tnkTakesBlocks; dsimp only; split <;> simp
@[simp] theorem enqueue_causes (n q) : (enqueue n q).causes = q.causes := by
  unfold enqueue; split <;> rfl
@[simp] theorem still_placeFor (a b c s) : still (placeFor a b c s) = still s := by
  unfold placeFor; split
  · cases c <;> simp [still, updateNtq, portSet, portGet]
  · rfl
@[simp] theorem still_placeNotice (a b s) : still (placeNotice a b s) = still s := by simp [placeNotice]
@[simp] theorem still_deliver (h s) : still (deliver h s) = still s := by
  unfold deliver; split <;> simp [lktTakesArrival, lktTakesMode, takeValue]
theorem still_settle (n p s) : still (settle n p s) = still s := by
  induction n generalizing p s with
  | zero => rfl
  | succ n ih =>
    unfold settle; split
    · rfl
    · simp [ih]
end Sys2Proof.Machine
end

