-- ==== Sys2Proof/Laws/Frames.lean ====
section
/-! SUPPORT. Frames: each operation of SEQ, LKT, GOV, TNK and NTQ changes its own unit and the
hand-overs under way, and nothing beside them (GOV also commands the THROTTLE line). -/

namespace Sys2Proof.Machine

/-! ### SEQ -/

/-- The state beside SEQ and the hand-overs under way. -/
def besideSeq (s : State) : State := { s with seq := resetSeq, hand := [] }

@[simp] theorem besideSeq_handOver (h s) : besideSeq (handOver h s) = besideSeq s := rfl
@[simp] theorem besideSeq_post (a b c d e s) : besideSeq (post a b c d e s) = besideSeq s := rfl
@[simp] theorem besideSeq_arrive (a b c s) : besideSeq (arrive a b c s) = besideSeq s := rfl
@[simp] theorem besideSeq_own (s : State) (x) : besideSeq { s with seq := x } = besideSeq s := rfl
@[simp] theorem besideSeq_transition (m sub why s) :
    besideSeq (transition m sub why s) = besideSeq s := by
  unfold transition; dsimp only; split <;> simp
@[simp] theorem besideSeq_postOutcome (a b s) : besideSeq (postOutcome a b s) = besideSeq s := by
  unfold postOutcome; split <;> simp
@[simp] theorem besideSeq_closeRequest (a s) :
    besideSeq (closeRequest a s) = besideSeq s := by simp [closeRequest]
@[simp] theorem besideSeq_openRequest (a b s) :
    besideSeq (openRequest a b s) = besideSeq s := by simp [openRequest]
@[simp] theorem besideSeq_rederive (s) :
    besideSeq (rederive s) = besideSeq s := by unfold rederive; split <;> simp
@[simp] theorem besideSeq_completeRelease (s) : besideSeq (completeRelease s) = besideSeq s := by
  simp [completeRelease]
@[simp] theorem besideSeq_startRelease (s) : besideSeq (startRelease s) = besideSeq s := rfl
@[simp] theorem besideSeq_releaseEntry (s) : besideSeq (releaseEntry s) = besideSeq s := by
  unfold releaseEntry; split <;> simp
@[simp] theorem besideSeq_enterRelease (a s) :
    besideSeq (enterRelease a s) = besideSeq s := by simp [enterRelease]
@[simp] theorem besideSeq_leaveShift (a b s) : besideSeq (leaveShift a b s) = besideSeq s := by
  simp [leaveShift]
@[simp] theorem besideSeq_abandonShift (a b s) :
    besideSeq (abandonShift a b s) = besideSeq s := by
  simp [abandonShift]
@[simp] theorem besideSeq_expireShift (s) : besideSeq (expireShift s) = besideSeq s := by
  unfold expireShift; dsimp only; split <;> simp
@[simp] theorem besideSeq_spinDownEntry (s) : besideSeq (spinDownEntry s) = besideSeq s := by
  unfold spinDownEntry; dsimp only; split <;> simp
@[simp] theorem besideSeq_enterSpinDown (a s) :
    besideSeq (enterSpinDown a s) = besideSeq s := by simp [enterSpinDown]
@[simp] theorem besideSeq_actOnPtoBlock (s) : besideSeq (actOnPtoBlock s) = besideSeq s := by
  unfold actOnPtoBlock; split <;> [split <;> simp; rfl]
@[simp] theorem besideSeq_completeShift (s) :
    besideSeq (completeShift s) = besideSeq s := by simp [completeShift]
@[simp] theorem besideSeq_startShift (p s) : besideSeq (startShift p s) = besideSeq s := by
  unfold startShift; dsimp only; split <;> [skip; split] <;> simp
@[simp] theorem besideSeq_seqTakesWord (n s) : besideSeq (seqTakesWord n s) = besideSeq s := by
  unfold seqTakesWord; repeat' split
  all_goals simp
@[simp] theorem besideSeq_seqTakesRelease (s) : besideSeq (seqTakesRelease s) = besideSeq s := by
  unfold seqTakesRelease; split <;> simp
@[simp] theorem besideSeq_seqTakesPump (n s) : besideSeq (seqTakesPump n s) = besideSeq s := by
  unfold seqTakesPump; split <;> simp
@[simp] theorem besideSeq_seqTakesBlocks (b s) :
    besideSeq (seqTakesBlocks b s) = besideSeq s := by
  simp [seqTakesBlocks]

/-! ### LKT -/

/-- The state beside LKT and the hand-overs under way. -/
def besideLkt (s : State) : State := { s with lkt := resetLkt, hand := [] }

@[simp] theorem besideLkt_handOver (h s) : besideLkt (handOver h s) = besideLkt s := rfl
@[simp] theorem besideLkt_post (a b c d e s) : besideLkt (post a b c d e s) = besideLkt s := rfl
@[simp] theorem besideLkt_arrive (a b c s) : besideLkt (arrive a b c s) = besideLkt s := rfl
@[simp] theorem besideLkt_own (s : State) (x) : besideLkt { s with lkt := x } = besideLkt s := rfl
@[simp] theorem besideLkt_takeValue (x v s) : besideLkt (takeValue x v s) = besideLkt s := rfl
@[simp] theorem besideLkt_treatRow (a b s i) : besideLkt (treatRow a b s i) = besideLkt s := rfl
theorem besideLkt_foldl {α} (f : State → α → State) (h : ∀ s a, besideLkt (f s a) = besideLkt s) (l : List α) (s) :
    besideLkt (l.foldl f s) = besideLkt s := by
  induction l generalizing s with
  | nil => rfl
  | cons a l ih => simp [ih, h]
@[simp] theorem besideLkt_treatRows (ev s) : besideLkt (treatRows ev s) = besideLkt s :=
  besideLkt_foldl _ (fun s i => besideLkt_treatRow _ _ s i) _ _
@[simp] theorem besideLkt_noticeRow (a s i) : besideLkt (noticeRow a s i) = besideLkt s := by
  unfold noticeRow; split <;> simp
@[simp] theorem besideLkt_noticeRows (b s) : besideLkt (noticeRows b s) = besideLkt s :=
  besideLkt_foldl _ (fun s i => besideLkt_noticeRow _ s i) _ _
@[simp] theorem besideLkt_deriveBlocks (s) : besideLkt (deriveBlocks s) = besideLkt s := by
  unfold deriveBlocks; dsimp only; split <;> simp
@[simp] theorem besideLkt_handleRows (ev s) :
    besideLkt (handleRows ev s) = besideLkt s := by simp [handleRows]
@[simp] theorem besideLkt_placeTable (s) :
    besideLkt (placeTable s) = besideLkt s := by simp [placeTable]
@[simp] theorem besideLkt_lktTakesArrival (x v s) :
    besideLkt (lktTakesArrival x v s) = besideLkt s := by
  simp [lktTakesArrival]
@[simp] theorem besideLkt_lktTakesMode (m s) :
    besideLkt (lktTakesMode m s) = besideLkt s := by simp [lktTakesMode]

/-! ### GOV -/

/-- The state beside GOV and the hand-overs under way. -/
def besideGov (s : State) : State := { s with
  gov := resetGov, lio := { s.lio with throttle := ⟨0, 0, s.lio.throttle.periodStart⟩ }, hand := [] }

@[simp] theorem besideGov_handOver (h s) : besideGov (handOver h s) = besideGov s := rfl
@[simp] theorem besideGov_post (a b c d e s) : besideGov (post a b c d e s) = besideGov s := rfl
@[simp] theorem besideGov_arrive (a b c s) : besideGov (arrive a b c s) = besideGov s := rfl
@[simp] theorem besideGov_own (s : State) (x) : besideGov { s with gov := x } = besideGov s := rfl
theorem besideGov_demand (s : State) (g d) :
    besideGov { s with gov := g, lio := { s.lio with throttle := commandThrottle d s.lio.throttle } } =
      besideGov s := rfl
@[simp] theorem besideGov_setDemand (d s) : besideGov (setDemand d s) = besideGov s := by
  unfold setDemand; split
  · rfl
  · simp [besideGov_demand]
@[simp] theorem besideGov_applyCeiling (s) :
    besideGov (applyCeiling s) = besideGov s := by simp [applyCeiling]
@[simp] theorem besideGov_postGovernor (a b s) :
    besideGov (postGovernor a b s) = besideGov s := rfl
@[simp] theorem besideGov_leaveRamp (a s) :
    besideGov (leaveRamp a s) = besideGov s := by simp [leaveRamp]
@[simp] theorem besideGov_watchOff (s) :
    besideGov (watchOff s) = besideGov s := by unfold watchOff; split <;> simp
@[simp] theorem besideGov_setWatch (s) :
    besideGov (setWatch s) = besideGov s := by unfold setWatch; split <;> simp
@[simp] theorem besideGov_govTakesIntake (a b s) :
    besideGov (govTakesIntake a b s) = besideGov s := by
  unfold govTakesIntake; dsimp only; repeat' split
  all_goals simp
@[simp] theorem besideGov_governorUpdate (a s) :
    besideGov (governorUpdate a s) = besideGov s := by
  unfold governorUpdate rampIntake; dsimp only; split <;> simp
@[simp] theorem besideGov_fallbackCheck (a s) : besideGov (fallbackCheck a s) = besideGov s := by
  unfold fallbackCheck; dsimp only; split <;> simp
@[simp] theorem besideGov_govTakesDischarge (a b s) :
    besideGov (govTakesDischarge a b s) = besideGov s := by
  unfold govTakesDischarge; split <;> simp
@[simp] theorem besideGov_govTakesMode (a s) : besideGov (govTakesMode a s) = besideGov s := by
  unfold govTakesMode; dsimp only; repeat' split
  all_goals simp
@[simp] theorem besideGov_govTakesBlocks (a s) :
    besideGov (govTakesBlocks a s) = besideGov s := by
  unfold govTakesBlocks; dsimp only; split <;> simp
@[simp] theorem besideGov_govTakesSupply (a s) :
    besideGov (govTakesSupply a s) = besideGov s := by
  simp [govTakesSupply]
@[simp] theorem besideGov_govTakesCeiling (s) : besideGov (govTakesCeiling s) = besideGov s := by
  unfold govTakesCeiling; split <;> simp

/-! ### TNK -/

/-- The state beside TNK and the hand-overs under way. -/
def besideTnk (s : State) : State := { s with tnk := resetTnk, hand := [] }

@[simp] theorem besideTnk_handOver (h s) : besideTnk (handOver h s) = besideTnk s := rfl
@[simp] theorem besideTnk_post (a b c d e s) : besideTnk (post a b c d e s) = besideTnk s := rfl
@[simp] theorem besideTnk_arrive (a b c s) : besideTnk (arrive a b c s) = besideTnk s := rfl
@[simp] theorem besideTnk_own (s : State) (x) : besideTnk { s with tnk := x } = besideTnk s := rfl
@[simp] theorem besideTnk_commandTankValve (s) :
    besideTnk (commandTankValve s) = besideTnk s := rfl
@[simp] theorem besideTnk_endFill (a b s) : besideTnk (endFill a b s) = besideTnk s := by
  unfold endFill; split <;> simp
@[simp] theorem besideTnk_openFill (a b s) :
    besideTnk (openFill a b s) = besideTnk s := by simp [openFill]
@[simp] theorem besideTnk_suspendStall (s) : besideTnk (suspendStall s) = besideTnk s := by
  unfold suspendStall; repeat' split
  all_goals simp
@[simp] theorem besideTnk_stallCheck (s) : besideTnk (stallCheck s) = besideTnk s := by
  unfold stallCheck; repeat' split
  all_goals simp
@[simp] theorem besideTnk_checkFill (s) : besideTnk (checkFill s) = besideTnk s := by
  unfold checkFill; repeat' split
  all_goals simp
@[simp] theorem besideTnk_checkGauges (l s) : besideTnk (checkGauges l s) = besideTnk s := by
  unfold checkGauges; dsimp only; repeat' split
  all_goals simp
@[simp] theorem besideTnk_checkGaugesIf (l s) : besideTnk (checkGaugesIf l s) = besideTnk s := by
  unfold checkGaugesIf; split <;> simp
@[simp] theorem besideTnk_handTank (a b c d e f s) :
    besideTnk (handTank a b c d e f s) = besideTnk s := by
  unfold handTank; dsimp only; repeat' split
  all_goals simp
@[simp] theorem besideTnk_recomputeTank0 (s) :
    besideTnk (recomputeTank0 s) = besideTnk s := by simp [recomputeTank0]
@[simp] theorem besideTnk_recomputeTank1 (s) :
    besideTnk (recomputeTank1 s) = besideTnk s := by simp [recomputeTank1]
@[simp] theorem besideTnk_tnkTakesLevel (a b c s) :
    besideTnk (tnkTakesLevel a b c s) = besideTnk s := by
  unfold tnkTakesLevel; dsimp only; split <;> simp
@[simp] theorem besideTnk_tnkTakesMode (a s) : besideTnk (tnkTakesMode a s) = besideTnk s := by
  unfold tnkTakesMode; dsimp only; split <;> simp
@[simp] theorem besideTnk_tnkTakesBlocks (a s) :
    besideTnk (tnkTakesBlocks a s) = besideTnk s := by
  unfold tnkTakesBlocks; dsimp only; split <;> simp
@[simp] theorem besideTnk_tnkTakesFull (s) : besideTnk (tnkTakesFull s) = besideTnk s := by
  unfold tnkTakesFull; split <;> simp
@[simp] theorem besideTnk_changeSupply (x s) : besideTnk (changeSupply x s) = besideTnk s := by
  unfold changeSupply; split <;> simp

/-! ### NTQ -/

/-- The state beside NTQ and the hand-overs under way. -/
def besideNtq (s : State) : State := { s with ntq := samePorts (resetNtq .supplyStart), hand := [] }

@[simp] theorem besideNtq_handOver (h s) : besideNtq (handOver h s) = besideNtq s := rfl
@[simp] theorem besideNtq_post (a b c d e s) : besideNtq (post a b c d e s) = besideNtq s := rfl
@[simp] theorem besideNtq_arrive (a b c s) : besideNtq (arrive a b c s) = besideNtq s := rfl
@[simp] theorem besideNtq_own (s : State) (x) : besideNtq { s with ntq := x } = besideNtq s := rfl
@[simp] theorem besideNtq_updateNtq (p f s) : besideNtq (updateNtq p f s) = besideNtq s := rfl
@[simp] theorem besideNtq_placeFor (a b c s) : besideNtq (placeFor a b c s) = besideNtq s := by
  unfold placeFor; split <;> simp
@[simp] theorem besideNtq_placeNotice (a b s) :
    besideNtq (placeNotice a b s) = besideNtq s := by simp [placeNotice]
@[simp] theorem placeFor_hand (a b c s) : (placeFor a b c s).hand = s.hand := by
  unfold placeFor; split <;> rfl
@[simp] theorem placeNotice_hand (a b s) : (placeNotice a b s).hand = s.hand := by
  simp [placeNotice]

/-! ### Units beside -/

theorem lkt_of_besideSeq {s t : State} (h : besideSeq t = besideSeq s) : t.lkt = s.lkt := by
  simpa [besideSeq] using congrArg State.lkt h
theorem gov_of_besideSeq {s t : State} (h : besideSeq t = besideSeq s) : t.gov = s.gov := by
  simpa [besideSeq] using congrArg State.gov h
theorem tnk_of_besideSeq {s t : State} (h : besideSeq t = besideSeq s) : t.tnk = s.tnk := by
  simpa [besideSeq] using congrArg State.tnk h
theorem ntq_of_besideSeq {s t : State} (h : besideSeq t = besideSeq s) : t.ntq = s.ntq := by
  simpa [besideSeq] using congrArg State.ntq h
theorem lio_of_besideSeq {s t : State} (h : besideSeq t = besideSeq s) : t.lio = s.lio := by
  simpa [besideSeq] using congrArg State.lio h
theorem seq_of_besideLkt {s t : State} (h : besideLkt t = besideLkt s) : t.seq = s.seq := by
  simpa [besideLkt] using congrArg State.seq h
theorem gov_of_besideLkt {s t : State} (h : besideLkt t = besideLkt s) : t.gov = s.gov := by
  simpa [besideLkt] using congrArg State.gov h
theorem tnk_of_besideLkt {s t : State} (h : besideLkt t = besideLkt s) : t.tnk = s.tnk := by
  simpa [besideLkt] using congrArg State.tnk h
theorem ntq_of_besideLkt {s t : State} (h : besideLkt t = besideLkt s) : t.ntq = s.ntq := by
  simpa [besideLkt] using congrArg State.ntq h
theorem lio_of_besideLkt {s t : State} (h : besideLkt t = besideLkt s) : t.lio = s.lio := by
  simpa [besideLkt] using congrArg State.lio h
theorem seq_of_besideGov {s t : State} (h : besideGov t = besideGov s) : t.seq = s.seq := by
  simpa [besideGov] using congrArg State.seq h
theorem lkt_of_besideGov {s t : State} (h : besideGov t = besideGov s) : t.lkt = s.lkt := by
  simpa [besideGov] using congrArg State.lkt h
theorem tnk_of_besideGov {s t : State} (h : besideGov t = besideGov s) : t.tnk = s.tnk := by
  simpa [besideGov] using congrArg State.tnk h
theorem ntq_of_besideGov {s t : State} (h : besideGov t = besideGov s) : t.ntq = s.ntq := by
  simpa [besideGov] using congrArg State.ntq h
theorem seq_of_besideTnk {s t : State} (h : besideTnk t = besideTnk s) : t.seq = s.seq := by
  simpa [besideTnk] using congrArg State.seq h
theorem lkt_of_besideTnk {s t : State} (h : besideTnk t = besideTnk s) : t.lkt = s.lkt := by
  simpa [besideTnk] using congrArg State.lkt h
theorem gov_of_besideTnk {s t : State} (h : besideTnk t = besideTnk s) : t.gov = s.gov := by
  simpa [besideTnk] using congrArg State.gov h
theorem ntq_of_besideTnk {s t : State} (h : besideTnk t = besideTnk s) : t.ntq = s.ntq := by
  simpa [besideTnk] using congrArg State.ntq h
theorem lio_of_besideTnk {s t : State} (h : besideTnk t = besideTnk s) : t.lio = s.lio := by
  simpa [besideTnk] using congrArg State.lio h
theorem seq_of_besideNtq {s t : State} (h : besideNtq t = besideNtq s) : t.seq = s.seq := by
  simpa [besideNtq] using congrArg State.seq h
theorem lkt_of_besideNtq {s t : State} (h : besideNtq t = besideNtq s) : t.lkt = s.lkt := by
  simpa [besideNtq] using congrArg State.lkt h
theorem gov_of_besideNtq {s t : State} (h : besideNtq t = besideNtq s) : t.gov = s.gov := by
  simpa [besideNtq] using congrArg State.gov h
theorem tnk_of_besideNtq {s t : State} (h : besideNtq t = besideNtq s) : t.tnk = s.tnk := by
  simpa [besideNtq] using congrArg State.tnk h
theorem lio_of_besideNtq {s t : State} (h : besideNtq t = besideNtq s) : t.lio = s.lio := by
  simpa [besideNtq] using congrArg State.lio h

end Sys2Proof.Machine
end

