-- ==== Sys2Proof/Laws/Spd.lean ====
section
/-! SUPPORT. What SPD's recomputation gives (R118, R119) and what it leaves as it is. -/

namespace Sys2Proof.Machine

/-! ### The disagreement check alters the disagreement and its timer alone -/

theorem checkDisagreement_frame (tolerance : Nat) (timer : Timer) (u : SpdUnit) :
    checkDisagreement tolerance timer u =
      { u with
        disagreement := (checkDisagreement tolerance timer u).disagreement
        disTimer := (checkDisagreement tolerance timer u).disTimer } := by
  unfold checkDisagreement
  repeat' split
  all_goals rfl

@[simp] theorem checkDisagreement_report (tolerance : Nat) (timer : Timer) (u : SpdUnit) :
    (checkDisagreement tolerance timer u).report = u.report := by
  rw [checkDisagreement_frame]

@[simp] theorem checkDisagreement_freshness (tolerance : Nat) (timer : Timer) (u : SpdUnit) :
    (checkDisagreement tolerance timer u).freshness = u.freshness := by
  rw [checkDisagreement_frame]

@[simp] theorem checkDisagreement_staleTimer (tolerance : Nat) (timer : Timer) (u : SpdUnit) :
    (checkDisagreement tolerance timer u).staleTimer = u.staleTimer := by
  rw [checkDisagreement_frame]

@[simp] theorem checkDisagreement_measured (tolerance : Nat) (timer : Timer) (u : SpdUnit) :
    (checkDisagreement tolerance timer u).measured = u.measured := by
  rw [checkDisagreement_frame]

@[simp] theorem checkDisagreement_value (tolerance : Nat) (timer : Timer) (u : SpdUnit) :
    (checkDisagreement tolerance timer u).value = u.value := by
  rw [checkDisagreement_frame]

@[simp] theorem checkDisagreement_transmission (tolerance : Nat) (timer : Timer) (u : SpdUnit) :
    (checkDisagreement tolerance timer u).transmission = u.transmission := by
  rw [checkDisagreement_frame]

/-! ### The recomputation alters the value and the transmission alone -/

theorem combineSpeed_frame (u : SpdUnit) :
    combineSpeed u =
      { u with value := (combineSpeed u).value, transmission := (combineSpeed u).transmission } := by
  unfold combineSpeed
  split <;> rfl

@[simp] theorem combineSpeed_report (u : SpdUnit) : (combineSpeed u).report = u.report := by
  rw [combineSpeed_frame]

@[simp] theorem combineSpeed_freshness (u : SpdUnit) :
    (combineSpeed u).freshness = u.freshness := by rw [combineSpeed_frame]

@[simp] theorem combineSpeed_staleTimer (u : SpdUnit) :
    (combineSpeed u).staleTimer = u.staleTimer := by rw [combineSpeed_frame]

@[simp] theorem combineSpeed_measured (u : SpdUnit) :
    (combineSpeed u).measured = u.measured := by rw [combineSpeed_frame]

@[simp] theorem combineSpeed_disagreement (u : SpdUnit) :
    (combineSpeed u).disagreement = u.disagreement := by rw [combineSpeed_frame]

@[simp] theorem combineSpeed_disTimer (u : SpdUnit) :
    (combineSpeed u).disTimer = u.disTimer := by rw [combineSpeed_frame]

/-- R118, STALE. -/
theorem combineSpeed_stale {u : SpdUnit} (h : u.freshness = .stale) :
    combineSpeed u = { u with value := u.measured, transmission := .unknown } := by
  simp [combineSpeed, h]

/-- R118, FRESH. -/
theorem combineSpeed_fresh {u : SpdUnit} {r : SpeedReport} (h : u.freshness = .fresh)
    (hr : u.report = some r) :
    combineSpeed u =
      { u with value := max r.speed u.measured, transmission := r.transmission } := by
  simp [combineSpeed, h, hr]

/-! ### What SPD hands on -/

/-- R120, R121: a recomputation gives SPD its record and hands on what that changes. -/
theorem recomputeSpeed_eq (check : Bool) (u : SpdUnit) (s : State) :
    recomputeSpeed check u s = { s with
      spd := recomputed check s u
      hand := s.hand ++ speedHandovers s check s.spd (recomputed check s u) } := by
  unfold recomputeSpeed handSpeed speedHandovers
  generalize recomputed check s u = v
  dsimp only
  have reason : qualitySubject v =
      if quality v = .good then 2 else if v.freshness = .stale then 0 else 1 := by
    unfold qualitySubject
    cases quality v <;> cases v.freshness <;> rfl
  rw [reason]
  cases hq : (quality v != quality s.spd) <;> cases hv : (v.value != s.spd.value) <;>
    cases ht : (v.transmission != s.spd.transmission) <;> cases check <;>
    simp [arrive, handOver, post, notice, lowWord]

/-! ### What SPD hands on changes nothing of the still part -/

@[simp] theorem still_handSpeed (check : Bool) (before : SpdUnit) (s : State) :
    still (handSpeed check before s) = still s := by
  unfold handSpeed; dsimp only; repeat' split
  all_goals simp

/-- R118, R121: a recomputation gives SPD its record and hands on. -/
theorem still_recomputeSpeed (check : Bool) (u : SpdUnit) (s : State) :
    still (recomputeSpeed check u s) = { still s with spd := recomputed check s u } := by
  simp [recomputeSpeed, still]
  have := still_handSpeed check s.spd { s with spd := recomputed check s u }
  simpa [still] using this

end Sys2Proof.Machine
end

