-- ==== Sys2Proof/Laws/Steps.lean ====
section
/-! SUPPORT. What the shared parts of a step do: time, `settle`, `whenRunning`, `serve`, and the reads of the
state that time leaves alone. -/

namespace Sys2Proof.Machine

/-! ### settle -/

/-- With nothing handed on there is nothing to take. -/
theorem settle_of_hand_nil (n : Nat) (picks : List Nat) (s : State) (h : s.hand = []) :
    settle n picks s = s := by
  cases n with
  | zero => rfl
  | succ n => simp [settle, nextHandover, takable, h]

/-- A single hand-over is the next one taken. -/
theorem nextHandover_single (picks : List Nat) (h : Handover) :
    nextHandover picks [h] = some (h, []) := by
  simp [nextHandover, takable, Nat.mod_one]

/-- A single hand-over is taken, whatever the picks. -/
theorem settle_of_hand_single {n : Nat} {picks : List Nat} {s : State} {h : Handover}
    (hs : s.hand = [h]) :
    settle (n + 1) picks s = settle n picks.tail (deliver h { s with hand := [] }) := by
  rw [settle, hs, nextHandover_single]

/-- What is taken next was handed on, and the rest still waits. -/
theorem takable_mem (passed hand : List Handover) (h : Handover) (rest : List Handover)
    (hm : (h, rest) ∈ takable passed hand) :
    h ∈ hand ∧ ∀ g ∈ rest, g ∈ passed ∨ g ∈ hand := by
  induction hand generalizing passed with
  | nil => simp [takable] at hm
  | cons a l ih =>
    unfold takable at hm
    have step : (h, rest) ∈ takable (passed ++ [a]) l →
        h ∈ a :: l ∧ ∀ g ∈ rest, g ∈ passed ∨ g ∈ a :: l := by
      intro hm
      obtain ⟨h1, h2⟩ := ih _ hm
      refine ⟨by simp [h1], fun g hg => ?_⟩
      rcases h2 g hg with h3 | h3
      · simp only [List.mem_append, List.mem_singleton] at h3
        rcases h3 with h3 | h3 <;> simp [h3]
      · simp [h3]
    split at hm
    · exact step hm
    · simp only [List.mem_cons, Prod.mk.injEq] at hm
      rcases hm with ⟨rfl, rfl⟩ | hm
      · refine ⟨by simp, fun g hg => ?_⟩
        simp only [List.mem_append] at hg
        rcases hg with hg | hg <;> simp [hg]
      · exact step hm

/-- The hand-over taken next was handed on, and so was every one that then waits. -/
theorem nextHandover_mem {picks : List Nat} {hand rest : List Handover} {h : Handover}
    (hn : nextHandover picks hand = some (h, rest)) :
    h ∈ hand ∧ ∀ g ∈ rest, g ∈ hand := by
  have := takable_mem [] hand h rest (List.mem_of_getElem? hn)
  simpa using this

/-- A property that every hand-over taken keeps is kept by `settle`. -/
theorem settle_induct (P : State → Prop)
    (hd : ∀ (h : Handover) (rest : List Handover) (s : State), P s → h ∈ s.hand →
      (∀ g ∈ rest, g ∈ s.hand) → P (deliver h { s with hand := rest }))
    (n : Nat) (picks : List Nat) (s : State) (hs : P s) : P (settle n picks s) := by
  induction n generalizing picks s with
  | zero => exact hs
  | succ n ih =>
    unfold settle
    split
    · exact hs
    · rename_i h rest heq
      obtain ⟨h1, h2⟩ := nextHandover_mem heq
      exact ih _ _ (hd h rest s hs h1 h2)

/-! ### takeHandovers and pass -/

/-- The hand-overs that a step takes are taken by `settle`. -/
theorem takeHandovers_eq (w : When) (s : State) :
    takeHandovers w s = settle (w.takes.getD (settleBound s)) w.picks s := by
  unfold takeHandovers settleAll
  cases w.takes <;> rfl

@[simp] theorem settleAll_of_hand_nil (picks : List Nat) {s : State} (h : s.hand = []) :
    settleAll picks s = s := settle_of_hand_nil _ _ _ h

@[simp] theorem takeHandovers_of_hand_nil (w : When) {s : State} (h : s.hand = []) :
    takeHandovers w s = s := by rw [takeHandovers_eq, settle_of_hand_nil _ _ _ h]

/-- With nothing under way, before a command time alone passes. -/
@[simp] theorem pass_of_hand_nil (dt : Nat) {s : State} (h : s.hand = []) :
    pass dt s = advance dt s := by
  unfold pass
  split
  · rfl
  · rw [settleAll_of_hand_nil _ h]

/-- At the same moment the hand-overs left still stand. -/
theorem pass_zero (s : State) : pass 0 s = advance 0 s := rfl

/-- A single hand-over under way is taken by a step that takes all. -/
theorem takeHandovers_of_hand_single {w : When} {s : State} {h : Handover} (hw : w.takes = none)
    (hs : s.hand = [h]) :
    takeHandovers w s = settle (settleBound s - 1) w.picks.tail (deliver h { s with hand := [] }) := by
  rw [takeHandovers_eq, hw]
  exact settle_of_hand_single hs

/-- A property that every hand-over taken keeps is kept by the hand-overs that a step takes. -/
theorem takeHandovers_induct (P : State → Prop)
    (hd : ∀ (h : Handover) (rest : List Handover) (s : State), P s → h ∈ s.hand →
      (∀ g ∈ rest, g ∈ s.hand) → P (deliver h { s with hand := rest }))
    (w : When) (s : State) (hs : P s) : P (takeHandovers w s) := by
  rw [takeHandovers_eq]
  exact settle_induct P hd _ _ _ hs

/-- A property that time and every hand-over taken keep is kept by the time before a command. -/
theorem pass_induct (P : State → Prop)
    (htime : ∀ dt s, P s → P (advance dt s))
    (hd : ∀ (h : Handover) (rest : List Handover) (s : State), P s → h ∈ s.hand →
      (∀ g ∈ rest, g ∈ s.hand) → P (deliver h { s with hand := rest }))
    (dt : Nat) (s : State) (hs : P s) : P (pass dt s) := by
  unfold pass
  refine htime _ _ ?_
  split
  · exact hs
  · exact settle_induct P hd _ _ _ hs

/-- No hand-over taken within a step changes the still part. -/
@[simp] theorem still_takeHandovers (w : When) (s : State) :
    still (takeHandovers w s) = still s := by rw [takeHandovers_eq, still_settle]

/-- Of the still part, time alone changes what it changes. -/
theorem still_advance (dt : Nat) {s t : State} (h : still t = still s) :
    still (advance dt t) = still (advance dt s) := by
  simp only [still, Still.mk.injEq] at h
  unfold advance
  rw [h.1]
  cases s.phase <;> simp [still, h]

/-- The still part after the time before a command. -/
@[simp] theorem still_pass (dt : Nat) (s : State) : still (pass dt s) = still (advance dt s) := by
  unfold pass
  split
  · rfl
  · exact still_advance dt (still_settle _ _ _)

/-! ### Commands -/

/-- A command is its time, its effect and the hand-overs taken. -/
theorem happen_eq (w : When) (f : State → State) (s : State) :
    happen w f s = .next (takeHandovers w (f (pass w.dt s))) := rfl

/-- A command that finds nothing under way. -/
theorem happen_at_rest (w : When) (f : State → State) {s : State} (hs : s.hand = []) :
    happen w f s = .next (takeHandovers w (f (advance w.dt s))) := by
  rw [happen_eq, pass_of_hand_nil _ hs]

/-- A command that finds nothing under way and whose effect hands nothing on. -/
theorem happen_of_hand_nil (w : When) (f : State → State) {s : State} (hs : s.hand = [])
    (h : (f (advance w.dt s)).hand = []) : happen w f s = .next (f (advance w.dt s)) := by
  rw [happen_at_rest w f hs, takeHandovers_of_hand_nil w h]

/-- After the start-up load a command has its effect. -/
theorem whenRunning_running (f : State → State) {s : State} (h : s.phase = .running) :
    whenRunning f s = f s := by simp [whenRunning, h]

/-- Before the end of the start-up load it has none. -/
theorem whenRunning_not (f : State → State) {s : State} (h : s.phase ≠ .running) :
    whenRunning f s = s := by simp [whenRunning, h]

/-- The owner of a request handed on decides it and fixes the answer. -/
theorem serve_asked {p : Port} {kind : RequestKind} {s : State} {args : List Word}
    (decide_ : List Word → State → State × Result × List Word)
    (h : askedOf s p kind = some args) :
    serve p kind decide_ s =
      fixAnswer p ⟨kind, (decide_ args s).2.1, (decide_ args s).2.2⟩ (decide_ args s).1 := by
  simp [serve, h]

/-- Where no such request has been handed on nothing happens. -/
theorem serve_unasked {p : Port} {kind : RequestKind} {s : State}
    (decide_ : List Word → State → State × Result × List Word)
    (h : askedOf s p kind = none) : serve p kind decide_ s = s := by
  simp [serve, h]

/-! ### Reads that time leaves alone -/

@[simp] theorem askedOf_advance (dt : Nat) (s : State) (p : Port) (k : RequestKind) :
    askedOf (advance dt s) p k = askedOf s p k := by simp [askedOf]

@[simp] theorem conf_advance (dt : Nat) (s : State) : conf (advance dt s) = conf s := by
  simp [conf]

@[simp] theorem portHolds_advance (dt : Nat) (s : State) (p : Port) (k : Right) :
    portHolds (advance dt s) p k = portHolds s p k := by simp [portHolds]

@[simp] theorem portRank_advance (dt : Nat) (s : State) (p : Port) :
    portRank (advance dt s) p = portRank s p := by simp [portRank]

@[simp] theorem feedback_advance (dt : Nat) (s : State) :
    feedback (advance dt s) = feedback s := by simp [feedback]

@[simp] theorem secured_advance (dt : Nat) (s : State) :
    secured (advance dt s) = secured s := by simp [secured]

@[simp] theorem derivedMode_advance (dt : Nat) (s : State) :
    derivedMode (advance dt s) = derivedMode s := by simp [derivedMode]

@[simp] theorem rowSlot_advance (dt : Nat) (s : State) (i : Nat) :
    rowSlot (advance dt s) i = rowSlot s i := by simp [rowSlot]

@[simp] theorem sourceSlot_advance (dt : Nat) (s : State) (x : Source) :
    sourceSlot (advance dt s) x = sourceSlot s x := by simp [sourceSlot]

@[simp] theorem sourceFaulted_advance (dt : Nat) (s : State) (x : Source) :
    sourceFaulted (advance dt s) x = sourceFaulted s x := by cases x <;> simp [sourceFaulted]

@[simp] theorem channelOf_advance (dt : Nat) (s : State) (n : Nat) :
    channelOf (advance dt s) n = channelOf s n := by simp [channelOf]

@[simp] theorem answered_advance (dt : Nat) (s : State) (p : Port) (a : Answer) :
    answered (advance dt s) p a = answered s p a := by simp [answered]

/-- The answer fixed, in the words of the statements. -/
theorem fixAnswer_eq (p : Port) (a : Answer) (s : State) :
    fixAnswer p a s = { s with links := answered s p a } := rfl

/-! ### Reads that depend on the still part alone -/

theorem conf_of_still {s t : State} (h : still t = still s) : conf t = conf s := by
  simp only [still, Still.mk.injEq] at h
  simp [conf, h]

theorem feedback_of_still {s t : State} (h : still t = still s) : feedback t = feedback s := by
  simp only [still, Still.mk.injEq] at h
  simp [feedback, h]

theorem secured_of_still {s t : State} (h : still t = still s) : secured t = secured s := by
  simp only [still, Still.mk.injEq] at h
  simp [secured, h]

theorem derivedMode_of_still {s t : State} (h : still t = still s) :
    derivedMode t = derivedMode s := by
  have h2 := secured_of_still h
  simp only [still, Still.mk.injEq] at h
  simp [derivedMode, h, h2]

end Sys2Proof.Machine
end

