-- ==== Sys2Proof/Laws/Exec.lean ====
section
/-! SUPPORT. Every command is its time, one effect and the hand-overs taken: the effect by command, and
the rules by which a property of every state passes through a step. -/

namespace Sys2Proof.Machine

/-- The effect of a command before its hand-overs are taken. -/
def effectOf : Instr → State → State
  | .supplyStart _ =>
    fun s =>
      if s.phase = .held then resetTo .held .resetLine s else resetTo .loading .supplyStart s
  | .resetLine _ =>
    resetTo .held .resetLine
  | .resetLineRelease _ =>
    fun s => if s.phase = .held then { s with phase := .loading } else s
  | .startUpLoadEnd _ lines =>
    fun s =>
      if s.phase = .loading then
        placeTable (startScan (startPwm (startGate (startInputs lines (loadRecords (loadConfig s))))))
      else s
  | .startUpWaitExpiry _ =>
    whenRunning (fun s =>
      if s.seq.mode = .init ∧ timerDue s.timeBase s.seq.startWait then leaveInit s else s)
  | .settleIntervalExpiry _ =>
    whenRunning (fun s =>
      if timerDue s.timeBase s.lio.settle then
        publishWord { s with lio := { s.lio with settle := none, published := true } }
      else s)
  | .stabilityTimerExpiry _ i =>
    whenRunning (fun s =>
      if timerDue s.timeBase (inputGet s.lio.inputs i).timer then acceptInput i s else s)
  | .tachEdge _ =>
    whenRunning (fun s =>
      publishPump { s with lio := { s.lio with
        np := speedAtEdge s, prevEdge := some s.usCount
        silence := some (startTimer s silenceLength) } })
  | .silenceTimerExpiry _ =>
    whenRunning (fun s =>
      if timerDue s.timeBase s.lio.silence then
        publishPump { s with lio := { s.lio with np := 0, prevEdge := none, silence := none } }
      else s)
  | .roadPulseEdge _ =>
    whenRunning (fun s =>
      { s with lio := { s.lio with gateCount := min 65535 (s.lio.gateCount + 1) } })
  | .gateEnd _ =>
    whenRunning (fun s =>
      match s.lio.gate with
      | none => s
      | some g =>
        if timerDue s.timeBase (some g) then takeGate s.lio.gateCount g.length (startGate s)
        else s)
  | .scanPeriodExpiry _ =>
    whenRunning (fun s =>
      if timerDue s.timeBase s.cnv.scanPeriod then startScan s else s)
  | .conversionCompletion _ code =>
    whenRunning (fun s =>
      match s.cnv.toConvert with
      | [] => s
      | channel :: rest =>
        if conversionTime ≤ sinceCount s.usCount s.cnv.begun then
          completeConversion channel rest code.toNat s
        else s)
  | .throttlePwmPeriodStart _ =>
    whenRunning (fun s =>
      match s.lio.throttle.periodStart with
      | none => s
      | some t => if pwmPeriod ≤ sinceCount s.usCount t then startPwm s else s)
  | .selectFall _ p =>
    fun s =>
      if s.phase = .running then
        if (portGet s.links p).selectLow then s else updateLink p (linkAtFall (statusWord s p)) s
      else updateLink p (fun l => { l with selectLow := true }) s
  | .selectRise _ p part =>
    updateLink p (linkAtRise part)
  | .answerCompletion _ p =>
    updateLink p linkAtAnswer
  | .readStatus _ p =>
    whenRunning (serve p .readStatus decideReadStatus)
  | .readRow _ p =>
    whenRunning (serve p .readRow decideReadRow)
  | .readNotice _ p =>
    whenRunning (serve p .readNotice (decideReadNotice p))
  | .readResetCause _ p =>
    whenRunning (serve p .readResetCause (decideReadResetCause p))
  | .readConfig _ p =>
    whenRunning (serve p .readConfig decideReadConfig)
  | .reportSpeed _ p =>
    whenRunning (serve p .reportSpeed (decideReportSpeed p))
  | .engage _ p =>
    whenRunning (serveMode p engageKind false (decideEngage p))
  | .roll _ p =>
    whenRunning (serveMode p rollKind true decideRoll)
  | .stopRoll _ p =>
    whenRunning (serveMode p stopRollKind true decideStopRoll)
  | .disengage _ p =>
    whenRunning (serveMode p disengageKind false (decideDisengage p))
  | .setGovernor _ p =>
    whenRunning (serve p .setGovernor (decideSetGovernor p))
  | .selectSupply _ p =>
    whenRunning (serve p .selectSupply (decideSelectSupply p))
  | .fillStart _ p =>
    whenRunning (serve p .fillStart (decideFillStart p))
  | .fillStop _ p =>
    whenRunning (serve p .fillStop (decideFillStop p))
  | .ackRow _ p =>
    whenRunning (serve p .ackRow (decideAckRow p))
  | .writeRow _ p =>
    whenRunning (serve p .writeRow (decideWriteRow p))
  | .lockTableSet _ p =>
    whenRunning (serveLock p lockSet (some p))
  | .lockTableClear _ p =>
    whenRunning (serveLock p lockClear none)
  | .writeConfig _ p =>
    whenRunning (serve p .writeConfig (decideWriteConfig p))
  | .storeConfig _ p =>
    whenRunning (serve p .storeConfig (decideStoreConfig p))
  | .storeEnd _ flaws =>
    whenRunning (fun s => if s.cfg.storeBusy then finishStore flaws s else s)
  | .postNote _ p =>
    whenRunning (serve p .postNote (decidePostNote p))
  | .shiftTimerExpiry _ =>
    whenRunning (fun s =>
      if s.seq.mode = .shiftingIn ∧ timerDue s.timeBase s.seq.shiftTimer then
        expireShift s
      else s)
  | .spinDownLimitExpiry _ =>
    whenRunning (fun s =>
      if s.seq.mode = .disengaging ∧ s.seq.sub = some .spinDown ∧
          timerDue s.timeBase s.seq.spinLimit then
        enterRelease .timeout s
      else s)
  | .releaseTimerExpiry _ =>
    whenRunning (fun s =>
      if s.seq.mode = .disengaging ∧ s.seq.sub = some .release ∧ feedbackStillSet s ∧
          timerDue s.timeBase s.seq.releaseTimer then
        failRelease s
      else s)
  | .holdTimerExpiry _ row =>
    whenRunning (fun s =>
      if (rowSlot s row).state = .holding ∧ timerDue s.timeBase (rowSlot s row).timer then
        handleRows (.expiry row) s
      else s)
  | .fillTimeoutExpiry _ =>
    whenRunning (fun s =>
      if timerDue s.timeBase (s.tnk.fill.map Fill.timeout) then endFill .timedOut 0 s else s)
  | .stallWindowExpiry _ =>
    whenRunning (fun s =>
      if timerDue s.timeBase (s.tnk.fill.bind Fill.stall) then endFill .stalled 0 s else s)
  | .staleTimerExpiry _ =>
    whenRunning (fun s =>
      if timerDue s.timeBase s.spd.staleTimer then becomeStale s else s)
  | .disagreementTimerExpiry _ =>
    whenRunning (fun s =>
      if s.spd.disagreement = .differing ∧ timerDue s.timeBase s.spd.disTimer then becomeDisagree s
      else s)
  | .inputSample _ lines =>
    whenRunning (fun s =>
      { s with lio := { s.lio with
          inputs := sampleInputs (startTimer s (conf s).timing.debounce) lines s.lio.inputs } })
  | .wordCompletion _ p word =>
    updateLink p (linkAtWord word)

/-- A command is its time, its effect, and the hand-overs taken. -/
theorem exec_eq (c : Instr) (s : State) : exec c s = happen (whenOf c) (effectOf c) s := by
  cases c <;> rfl

/-- The state after a command. -/
theorem exec_next {c : Instr} {s t : State} (h : exec c s = .next t) :
    t = takeHandovers (whenOf c) (effectOf c (pass (whenOf c).dt s)) := by
  rw [exec_eq, happen_eq] at h
  cases h; rfl

/-- What a step can do: a tick on an empty queue, or the command at the front. -/
theorem step_cases {s t : State} (h : step s = .next t) :
    (s.pending = [] ∧ t = tick s) ∨
      ∃ c rest, s.pending = c :: rest ∧ exec c { s with pending := rest } = .next t := by
  unfold step at h
  split at h
  · rename_i hp; cases h; exact .inl ⟨hp, rfl⟩
  · rename_i c rest hp; exact .inr ⟨c, rest, hp, h⟩

/-- A property of a state that time, the queue, every hand-over and every command's effect keep is
kept by every step. -/
theorem step_keeps (P : State → Prop)
    (hqueue : ∀ s rest, P s → P { s with pending := rest })
    (htime : ∀ dt s, P s → P (advance dt s))
    (hhand : ∀ (h : Handover) (rest : List Handover) (s : State), P s → h ∈ s.hand →
      (∀ g ∈ rest, g ∈ s.hand) → P (deliver h { s with hand := rest }))
    (heffect : ∀ c s, P s → P (effectOf c s))
    {s t : State} (hs : P s) (h : step s = .next t) : P t := by
  rcases step_cases h with ⟨-, rfl⟩ | ⟨c, rest, -, h⟩
  · exact pass_induct P htime hhand _ _ hs
  · rw [exec_next h]
    exact takeHandovers_induct P hhand _ _
      (heffect _ _ (pass_induct P htime hhand _ _ (hqueue _ _ hs)))

/-- A property that an effect keeps after the start-up load is kept by the command. -/
theorem whenRunning_keeps (P : State → Prop) (f : State → State) {s : State} (hs : P s)
    (hf : s.phase = .running → P (f s)) : P (whenRunning f s) := by
  unfold whenRunning
  split
  · rename_i h; exact hf h
  · exact hs

/-- A property that a decision and the fixing of an answer keep is kept by the request. -/
theorem serve_keeps (P : State → Prop) {p : Port} {kind : RequestKind}
    {decide_ : List Word → State → State × Result × List Word} {s : State} (hs : P s)
    (hd : ∀ args, askedOf s p kind = some args →
      P (fixAnswer p ⟨kind, (decide_ args s).2.1, (decide_ args s).2.2⟩ (decide_ args s).1)) :
    P (serve p kind decide_ s) := by
  unfold serve
  split
  · exact hs
  · rename_i args h; exact hd args h

/-- The same for a REQUEST_MODE. -/
theorem serveMode_keeps (P : State → Prop) {p : Port} {own : Nat} {needsRoll : Bool}
    {decide_ : State → State × Result} {s : State} (hs : P s)
    (hanswer : ∀ a s, P s → P (fixAnswer p a s)) (hd : P (decide_ s).1) :
    P (serveMode p own needsRoll decide_ s) := by
  unfold serveMode
  split
  · refine serve_keeps P hs fun args _ => hanswer _ _ ?_
    unfold admitMode refuse
    repeat' split
    all_goals first | exact hs | exact hd
  · exact hs

end Sys2Proof.Machine
end

