-- ==== Sys2Proof/Laws/Gov.lean ====
section
/-! SUPPORT. What GOV does with what SEQ, LKT, TNK and CNV hand it, each as one record of what changes
and what is handed on. -/

namespace Sys2Proof.Machine

/-! ### Demand and ceiling -/

/-- A GOVERNOR notice in the words of the statements. -/
theorem postGovernor_eq (n : Nat) (v : Int) (s : State) :
    postGovernor n v s =
      { s with hand := s.hand ++ [notice s .gov .governor n (wordOfInt v) .subscribers] } := rfl

/-- A new demand, GOV's record having become `g` and `before` having been posted. -/
theorem setDemand_governed (s : State) (g : GovUnit) (d : Nat) (before : List Handover)
    (hg : g.d = s.gov.d) :
    Governed s (setDemand d { s with gov := g, hand := s.hand ++ before })
      { g with d := d } before [] := by
  unfold setDemand
  dsimp only
  rw [hg]
  split
  · rename_i h
    subst h
    refine ⟨?_, fun _ => rfl, fun h => absurd rfl h⟩
    simp [← hg]
  · rename_i h
    refine ⟨by simp [arrive, handOver, h], fun h' => absurd h' h, fun _ => rfl⟩

/-- The ceiling applied (R78, R79, R80). -/
theorem applyCeiling_governed (s : State) (g : GovUnit) (before : List Handover)
    (hg : g.d = s.gov.d) :
    let least := ceilingFor (conf s).gains.ceiling g.cIntake g.blocks
    Governed s (applyCeiling { s with gov := g, hand := s.hand ++ before })
      { g with c := least, d := min s.gov.d least } before [] := by
  have h := setDemand_governed s
    { g with c := ceilingFor (conf s).gains.ceiling g.cIntake g.blocks }
    (min s.gov.d (ceilingFor (conf s).gains.ceiling g.cIntake g.blocks)) before hg
  rw [← hg] at h ⊢
  exact h

/-- With C_intake at C_cfg the ceiling is C_cfg, or 0 under a THROTTLE block. -/
theorem ceilingFor_self (n : Nat) (b : BlockSet) :
    ceilingFor n n b = if holdsBlock b .throttle then 0 else n := by
  unfold ceilingFor; rw [Nat.min_self]

/-! ### Updates and the fallback -/

/-- What an update can do: C, C_intake and e_prev of the record change, then D is set (R77, R80). -/
theorem governorUpdate_cases (pd : Int) (s : State) :
    ∃ (d : Nat) (g : GovUnit), governorUpdate pd s = setDemand d { s with gov := g } ∧
      g = { s.gov with c := g.c, ePrev := g.ePrev, cIntake := g.cIntake } := by
  unfold governorUpdate rampIntake
  dsimp only
  split <;> exact ⟨_, _, rfl, rfl⟩

/-- The fallback (R83). -/
theorem fallbackCheck_eq (faulted : Bool) (s : State) :
    fallbackCheck faulted s =
      if faulted = true ∧ s.gov.governing = .pressure then
        let n := min 3000 (max 600 s.lio.np)
        { s with
          gov := { s.gov with faultMark := true, governing := .speed, sn := n, ePrev := 0 }
          hand := s.hand ++ [notice s .gov .governor 0 (wordOfInt n) .subscribers] }
      else { s with gov := { s.gov with faultMark := faulted } } := by
  have hn : clampNat 600 3000 s.lio.np = min 3000 (max 600 s.lio.np) := by
    unfold clampNat; split <;> [skip; split] <;> omega
  unfold fallbackCheck
  cases faulted <;> cases h : s.gov.governing <;>
    simp [postGovernor_eq, hn, fallbackSubject, notice, h]

/-! ### The intake watch -/

/-- The watch becomes another than LOW (R80, R81, R82). -/
theorem leaveRamp_governed (x : IntakeWatch) (s : State) (g : GovUnit) (before : List Handover)
    (hg : g.d = s.gov.d) :
    let least := if holdsBlock g.blocks .throttle then 0 else (conf s).gains.ceiling
    Governed s (leaveRamp x { s with gov := g, hand := s.hand ++ before })
      { g with watch := x, cIntake := (conf s).gains.ceiling, c := least, d := min s.gov.d least }
      before [] := by
  have h := applyCeiling_governed s { g with watch := x, cIntake := (conf s).gains.ceiling }
    before hg
  simp only [ceilingFor_self] at h
  exact h

/-- The watch becomes OFF (R81). -/
theorem watchOff_governed (s : State) (g : GovUnit) (hg : g.d = s.gov.d) :
    let least := if holdsBlock g.blocks .throttle then 0 else (conf s).gains.ceiling
    Governed s (watchOff { s with gov := g })
      { g with watch := .off, cIntake := (conf s).gains.ceiling, c := least, d := min s.gov.d least }
      (if g.watch = .low then
        [notice s .gov .governor 2 (wordOfInt g.lastIntake) .subscribers] else []) [] := by
  unfold watchOff
  dsimp only
  split
  · exact leaveRamp_governed .off s g _ hg
  · have h := leaveRamp_governed .off s g [] hg
    simpa using h

/-- An intake arrival that takes the watch out of LOW or into SUSPENDED (R81, R82). -/
theorem leaveRamp_posted (x : IntakeWatch) (n : Nat) (v : Int) (s : State) (g : GovUnit)
    (hg : g.d = s.gov.d) :
    let least := if holdsBlock g.blocks .throttle then 0 else (conf s).gains.ceiling
    Governed s (leaveRamp x (postGovernor n v { s with gov := g }))
      { g with watch := x, cIntake := (conf s).gains.ceiling, c := least, d := min s.gov.d least }
      [notice s .gov .governor n (wordOfInt v) .subscribers] [] :=
  leaveRamp_governed x s g _ hg

/-! ### What the other units hand GOV -/

/-- A change of supply (R81). -/
theorem govTakesSupply_eq (x : Supply) (s : State) :
    govTakesSupply x s =
      if pumping s.gov.mode && x == .external then
        { s with gov := { s.gov with
          supply := x, watch := if s.gov.watch = .off then .watching else s.gov.watch } }
      else if s.gov.watch = .off then { s with gov := { s.gov with supply := x } }
      else watchOff { s with gov := { s.gov with supply := x } } := by
  unfold govTakesSupply setWatch protects
  dsimp only
  cases pumping s.gov.mode && x == .external <;> cases s.gov.watch <;> simp

/-- With no demand, a fall to 0 and a ceiling hand nothing on. -/
theorem setDemand_zero (s : State) (h : s.gov.d = 0) : setDemand 0 s = s := by
  simp [setDemand, h]

theorem applyCeiling_zero (s : State) (h : s.gov.d = 0) :
    applyCeiling s = { s with gov := { s.gov with
      c := ceilingFor (conf s).gains.ceiling s.gov.cIntake s.gov.blocks } } := by
  unfold applyCeiling
  simp only [h, Nat.zero_min]
  rw [setDemand_zero _ rfl]

/-- The watch put OFF with no demand (R81). -/
theorem watchOff_zero (s : State) (h : s.gov.d = 0) :
    watchOff s = { s with
      gov := { s.gov with
        watch := .off, cIntake := (conf s).gains.ceiling
        c := if holdsBlock s.gov.blocks .throttle then 0 else (conf s).gains.ceiling }
      hand := s.hand ++ if s.gov.watch = .low then
        [notice s .gov .governor 2 (wordOfInt s.gov.lastIntake) .subscribers] else [] } := by
  unfold watchOff leaveRamp
  rw [applyCeiling_zero]
  · split <;> simp [postGovernor_eq, ceilingFor_self, conf, intakeClearSubject]
  · split <;> exact h

/-- The demand falls to 0, then `after` is posted and the rest of the record becomes that of `g`. -/
theorem governed_of_zero (s : State) (g g' : GovUnit) (after : List Handover) (t : State)
    (hg : g.d = s.gov.d) (hd : g'.d = 0)
    (ht : t = { setDemand 0 { s with gov := g } with
      gov := g', hand := (setDemand 0 { s with gov := g }).hand ++ after }) :
    Governed s t g' [] after := by
  have h := setDemand_governed s g 0 [] hg
  simp only [List.append_nil] at h
  obtain ⟨h1, h2, h3⟩ := h
  rw [ht]
  generalize setDemand 0 { s with gov := g } = x at h1 h2 h3
  refine ⟨?_, fun h => h2 (by rw [← h, hd]), fun h => ?_⟩
  · rw [hd]
    generalize hx : x.lio.throttle = k at h1
    rw [h1]
    simp
  · rw [hd]; exact h3 (by simpa [hd] using h)

/-- The entry to PUMP from SHIFTING_IN (R73, R81). -/
theorem govTakesMode_entered (s : State) (hm : s.gov.mode = .shiftingIn) :
    let cCfg := (conf s).gains.ceiling
    let ceiling := if holdsBlock s.gov.blocks .throttle then 0 else cCfg
    let entered : GovUnit := { s.gov with
      mode := .pump, d := 0, ePrev := 0, cIntake := cCfg, c := ceiling }
    (s.gov.supply = .external → Governed s (govTakesMode .pump s) { entered with
      watch := if s.gov.watch = .off then .watching else s.gov.watch } [] []) ∧
    (s.gov.supply = .tank → Governed s (govTakesMode .pump s) { entered with watch := .off } []
      (if s.gov.watch = .low then
        [notice s .gov .governor 2 (wordOfInt s.gov.lastIntake) .subscribers] else [])) := by
  dsimp only
  have hu : govTakesMode .pump s = applyCeiling (setWatch (setDemand 0 { s with gov := { s.gov with
      mode := .pump, ePrev := 0, cIntake := (conf s).gains.ceiling } })) := by
    unfold govTakesMode
    rw [if_pos ⟨hm, rfl⟩]; rfl
  have hb := setDemand_governed s { s.gov with
    mode := .pump, ePrev := 0, cIntake := (conf s).gains.ceiling } 0 [] rfl
  simp only [List.append_nil] at hb
  rw [hu]
  refine ⟨fun hs => governed_of_zero s { s.gov with
      mode := .pump, ePrev := 0, cIntake := (conf s).gains.ceiling } _ _ _ rfl rfl ?_,
    fun hs => governed_of_zero s { s.gov with
      mode := .pump, ePrev := 0, cIntake := (conf s).gains.ceiling } _ _ _ rfl rfl ?_⟩
  all_goals
    generalize setDemand 0 { s with gov := { s.gov with
      mode := .pump, ePrev := 0, cIntake := (conf s).gains.ceiling } } = x at hb ⊢
    obtain ⟨h1, -, -⟩ := hb
    generalize x.lio.throttle = k at h1
    generalize (if (0 : Nat) = s.gov.d then [] else
      [Handover.arrival .gov .throttleDemand (some 0)]) = l at h1
    subst h1
    unfold setWatch protects
  · cases s.gov.watch <;> simp [hs, pumping, applyCeiling_zero, ceilingFor_self, conf]
  · have he : (Supply.tank == .external) = false := rfl
    cases s.gov.watch <;>
      simp [hs, he, pumping, applyCeiling_zero, watchOff_zero, ceilingFor_self, conf, notice]

/-- The leaving of PUMP and ROLL (R73, R81). -/
theorem govTakesMode_left (m : Mode) (s : State) (hm : pumping s.gov.mode = true)
    (hn : pumping m = false) :
    Governed s (govTakesMode m s) { s.gov with
        mode := m, d := 0, ePrev := 0, cIntake := (conf s).gains.ceiling, watch := .off
        c := if holdsBlock s.gov.blocks .throttle then 0 else (conf s).gains.ceiling } []
      (if s.gov.watch = .low then
        [notice s .gov .governor 2 (wordOfInt s.gov.lastIntake) .subscribers] else []) := by
  have hu : govTakesMode m s =
      watchOff (setDemand 0 { s with gov := { s.gov with mode := m, ePrev := 0 } }) := by
    unfold govTakesMode
    rw [if_neg (by rintro ⟨-, rfl⟩; cases hn), if_pos (by simp [hm, hn])]
  have hb := setDemand_governed s { s.gov with mode := m, ePrev := 0 } 0 [] rfl
  simp only [List.append_nil] at hb
  rw [hu]
  refine governed_of_zero s { s.gov with mode := m, ePrev := 0 } _ _ _ rfl rfl ?_
  generalize setDemand 0 { s with gov := { s.gov with mode := m, ePrev := 0 } } = x at hb ⊢
  obtain ⟨h1, -, -⟩ := hb
  generalize x.lio.throttle = k at h1
  generalize (if (0 : Nat) = s.gov.d then [] else
    [Handover.arrival .gov .throttleDemand (some 0)]) = l at h1
  subst h1
  rw [watchOff_zero _ rfl]
  rfl

/-- A block set (R78). -/
theorem govTakesBlocks_governed (b : BlockSet) (s : State)
    (h : holdsBlock b .throttle ≠ holdsBlock s.gov.blocks .throttle) :
    let least := if holdsBlock b .throttle then 0 else min (conf s).gains.ceiling s.gov.cIntake
    Governed s (govTakesBlocks b s)
      { s.gov with blocks := b, c := least, d := min s.gov.d least } [] [] := by
  unfold govTakesBlocks
  dsimp only
  rw [if_neg h]
  have h2 := applyCeiling_governed s { s.gov with blocks := b } [] rfl
  simp only [List.append_nil] at h2
  exact h2

/-- What GOV does when C_cfg has been written (R79). -/
theorem govTakesCeiling_governed (s : State) :
    let ceiling := (conf s).gains.ceiling
    let intake := if s.gov.watch = .low then s.gov.cIntake else ceiling
    let least := ceilingFor ceiling intake s.gov.blocks
    Governed s (govTakesCeiling s)
      { s.gov with cIntake := intake, c := least, d := min s.gov.d least } [] [] := by
  have h := applyCeiling_governed s { s.gov with
    cIntake := if s.gov.watch = .low then s.gov.cIntake else (conf s).gains.ceiling } [] rfl
  dsimp only at h ⊢
  unfold govTakesCeiling
  by_cases hw : s.gov.watch = .low
  · rw [if_pos hw, if_pos hw] at *
    simpa using h
  · rw [if_neg hw, if_neg hw] at *
    simpa using h

end Sys2Proof.Machine
end

