-- ==== Sys2Proof/Laws/Lkt.lean ====
section
/-! SUPPORT. What LKT's handling of an event does to the table: row by row in ascending order, and the
notices and the block set at the end, which touch no row. -/

namespace Sys2Proof.Machine

/-! ### One row's turn -/

/-- The table after the turns of the rows below `n` in a handling of `ev` that began in `s`. -/
def midway (ev : RowEvent) (s : State) (n : Nat) : State :=
  (List.range n).foldl (treatRow s.lkt.rows ev) s

theorem midway_succ (ev : RowEvent) (s : State) (n : Nat) :
    midway ev s (n + 1) = treatRow s.lkt.rows ev (midway ev s n) n := by
  simp [midway, List.range_succ]

theorem treatRows_eq (ev : RowEvent) (s : State) : treatRows ev s = midway ev s 24 := rfl

/-- A row's turn alters the rows alone. -/
theorem midway_frame (ev : RowEvent) (s : State) (n : Nat) :
    midway ev s n = { s with lkt := { s.lkt with rows := (midway ev s n).lkt.rows } } := by
  induction n with
  | zero => rfl
  | succ n ih => rw [midway_succ, ih]; rfl

theorem midway_length (ev : RowEvent) (s : State) (n : Nat) :
    (midway ev s n).lkt.rows.length = s.lkt.rows.length := by
  induction n with
  | zero => rfl
  | succ n ih => rw [midway_succ]; simp [treatRow, ih]

/-- A row's turn alters that row alone. -/
theorem midway_step (ev : RowEvent) (s : State) (n i : Nat) (hn : n < s.lkt.rows.length) :
    rowSlot (midway ev s (n + 1)) i =
      if n = i then
        atEvent ev (midway ev s n) n (rowRecord (conf s) n)
          (afterPrecursor s.lkt.rows (midway ev s n) n (rowRecord (conf s) n)
            (rowSlot (midway ev s n) n))
      else rowSlot (midway ev s n) i := by
  have hc : conf (midway ev s n) = conf s := by rw [midway_frame]; rfl
  rw [midway_succ]
  simp only [rowSlot, treatRow, hc, replaceAt_getD, midway_length, hn, and_true]

/-- A row whose turn has not come is as it was. -/
theorem rowSlot_midway_before (ev : RowEvent) (s : State) (n i : Nat) (hi : n ≤ i)
    (hn : n ≤ s.lkt.rows.length) : rowSlot (midway ev s n) i = rowSlot s i := by
  induction n with
  | zero => rfl
  | succ n ih => rw [midway_step _ _ _ _ (by omega), if_neg (by omega), ih (by omega) (by omega)]

/-- A row whose turn is over does not change again. -/
theorem rowSlot_midway_after (ev : RowEvent) (s : State) (n m i : Nat) (hi : i < n) (hm : n ≤ m)
    (hl : m ≤ s.lkt.rows.length) : rowSlot (midway ev s m) i = rowSlot (midway ev s n) i := by
  induction m with
  | zero => omega
  | succ m ih =>
    rcases Nat.lt_or_ge m n with h | h
    · rw [Nat.le_antisymm hm h]
    · rw [midway_step _ _ _ _ (by omega), if_neg (by omega), ih h (by omega)]

/-! ### The end of a handling -/

/-- The notices of a handling join the hand-overs under way and alter nothing else. -/
theorem noticeRows_frame (before : List RowSlot) (s : State) :
    noticeRows before s = { s with hand := (noticeRows before s).hand } := by
  have h : ∀ (l : List Nat) (s : State), l.foldl (noticeRow before) s =
      { s with hand := (l.foldl (noticeRow before) s).hand } := by
    intro l
    induction l with
    | nil => intro s; rfl
    | cons i l ih =>
      intro s
      simp only [List.foldl_cons]
      rw [ih]
      have : noticeRow before s i = { s with hand := (noticeRow before s i).hand } := by
        unfold noticeRow; split <;> rfl
      rw [this]
  exact h _ s

/-- The derivation of the block set alters no row, no source and not the mode. -/
theorem deriveBlocks_rows (s : State) :
    (deriveBlocks s).lkt.rows = s.lkt.rows ∧ (deriveBlocks s).lkt.sources = s.lkt.sources ∧
      (deriveBlocks s).lkt.mode = s.lkt.mode ∧ (deriveBlocks s).lkt.lock = s.lkt.lock := by
  unfold deriveBlocks
  dsimp only
  split <;> simp [handOver]

/-- A handling leaves the sources, the mode and the lock; its rows are those of the turns. -/
theorem handleRows_lkt (ev : RowEvent) (s : State) :
    (handleRows ev s).lkt.rows = (midway ev s 24).lkt.rows ∧
      (handleRows ev s).lkt.sources = s.lkt.sources ∧ (handleRows ev s).lkt.mode = s.lkt.mode ∧
      (handleRows ev s).lkt.lock = s.lkt.lock := by
  unfold handleRows
  obtain ⟨h1, h2, h3, h4⟩ := deriveBlocks_rows (noticeRows s.lkt.rows (treatRows ev s))
  rw [h1, h2, h3, h4, noticeRows_frame, treatRows_eq]
  refine ⟨rfl, ?_, ?_, ?_⟩ <;> rw [midway_frame]

/-- The notices of the rows listed, in their order. -/
theorem noticeRow_foldl (before : List RowSlot) (l : List Nat) (s : State) :
    l.foldl (noticeRow before) s = { s with
      hand := s.hand ++ l.flatMap fun i =>
        if (rowSlot s i).state = (before.getD i ⟨.off, none⟩).state then []
        else [notice s .lkt .rowState i
          (wordOfNat (256 * rowStateCode (rowSlot s i).state +
            rowStateCode (before.getD i ⟨.off, none⟩).state)) .subscribers] } := by
  have hw : ∀ a b : RowState,
      bytesWord (rowStateCode a) (rowStateCode b) =
        wordOfNat (256 * rowStateCode a + rowStateCode b) := by
    intro a b; cases a <;> cases b <;> rfl
  induction l generalizing s with
  | nil => simp
  | cons i l ih =>
    rw [List.foldl_cons, ih]
    unfold noticeRow
    split
    · rename_i h; simp [h]
    · rename_i h
      simp only [List.flatMap_cons, if_neg h, hw, post, handOver, notice, lowWord]
      simp only [← List.append_assoc]
      rfl

/-- The block set's union, kind by kind. -/
theorem derivedBlocks_getLsbD (s : State) (n : Nat) :
    (derivedBlocks s).getLsbD n = true ↔
      ∃ i < 24, ((rowSlot s i).state = .active ∨ (rowSlot s i).state = .latched) ∧
        (rowRecord (conf s) i).blocks.getLsbD n = true := by
  have he : ∀ x : RowState, inEffect x = true ↔ x = .active ∨ x = .latched := by
    intro x; cases x <;> simp [inEffect]
  have h : ∀ (l : List Nat) (b : BlockSet),
      (l.foldl (fun b i => if inEffect (rowSlot s i).state then
        b ||| (rowRecord (conf s) i).blocks else b) b).getLsbD n = true ↔
      b.getLsbD n = true ∨
        ∃ i ∈ l, inEffect (rowSlot s i).state = true ∧
          (rowRecord (conf s) i).blocks.getLsbD n = true := by
    intro l
    induction l with
    | nil => simp
    | cons i l ih =>
      intro b
      rw [List.foldl_cons, ih]
      cases hi : inEffect (rowSlot s i).state <;> simp [hi, or_assoc]
  unfold derivedBlocks
  rw [h]
  simp [he]

/-- The end of a handling: the block set derived, and handed on if it has changed. -/
theorem deriveBlocks_eq (s : State) :
    deriveBlocks s = { s with
      lkt := { s.lkt with
        blocks := derivedBlocks s
        drivePermit := drivePermitFor s.lkt.mode (fillActive s) (derivedBlocks s) }
      hand := s.hand ++ if derivedBlocks s = s.lkt.blocks then []
        else [.blocksToSeq (derivedBlocks s), .blocksToGov (derivedBlocks s),
          .blocksToTnk (derivedBlocks s)] } := by
  unfold deriveBlocks
  dsimp only
  split <;> simp [handOver]

/-- What a handling gives, in the words of the statements. -/
theorem handleRows_handled (ev : RowEvent) (s : State) : Handled s (handleRows ev s) := by
  unfold handleRows noticeRows
  rw [treatRows_eq, deriveBlocks_eq, noticeRow_foldl]
  have hm := midway_frame ev s 24
  have hl := midway_length ev s 24
  generalize midway ev s 24 = m at hm hl ⊢
  generalize m.lkt.rows = rows at hm
  subst hm
  exact ⟨fun n => derivedBlocks_getLsbD _ n, rfl, rfl, hl, rfl⟩

/-- The same where LKT has taken a value or a mode first, its rows, block set and lock as they were. -/
theorem handleRows_handled_of_lkt {s : State} {l : LktUnit} (ev : RowEvent)
    (hr : l.rows = s.lkt.rows) (hb : l.blocks = s.lkt.blocks) (hk : l.lock = s.lkt.lock) :
    Handled s (handleRows ev { s with lkt := l }) := by
  obtain ⟨h1, h2, h3, h4, h5⟩ := handleRows_handled ev { s with lkt := l }
  have hn : ∀ t, rowNotices { s with lkt := l } t = rowNotices s t := by
    intro t
    have hi : ∀ i, rowSlot { s with lkt := l } i = rowSlot s i := fun i => by rw [rowSlot, hr, rowSlot]
    simp only [rowNotices, hi]
    rfl
  rw [hn, hb] at h5
  exact ⟨h1, h2, h3.trans hk, by simpa [hr] using h4, h5⟩

/-- What a handling gives row `i`: its turn, taken when the rows below it have had theirs. -/
theorem rowSlot_handleRows (ev : RowEvent) (s : State) (i : Nat) (hi : i < 24)
    (hl : s.lkt.rows.length = 24) :
    rowSlot (handleRows ev s) i =
      atEvent ev (midway ev s i) i (rowRecord (conf s) i)
        (afterPrecursor s.lkt.rows (midway ev s i) i (rowRecord (conf s) i) (rowSlot s i)) := by
  have h : rowSlot (handleRows ev s) i = rowSlot (midway ev s 24) i := by
    simp only [rowSlot, (handleRows_lkt ev s).1]
  rw [h, rowSlot_midway_after ev s (i + 1) 24 i (by omega) (by omega) (by omega),
    midway_step _ _ _ _ (by omega), if_pos rfl, rowSlot_midway_before _ _ _ _ le_rfl (by omega)]

/-- What row `i`'s turn finds of row `p`: what the handling gives it if it stands below, else what it
was. -/
theorem rowSlot_midway (ev : RowEvent) (s : State) (i p : Nat) (hi : i < 24)
    (hl : s.lkt.rows.length = 24) :
    rowSlot (midway ev s i) p = if p < i then rowSlot (handleRows ev s) p else rowSlot s p := by
  split
  · have h : rowSlot (handleRows ev s) p = rowSlot (midway ev s 24) p := by
      simp only [rowSlot, (handleRows_lkt ev s).1]
    rw [h, rowSlot_midway_after ev s i 24 p ‹_› (by omega) (by omega)]
  · exact rowSlot_midway_before _ _ _ _ (by omega) (by omega)

/-- A row's turn finds the sources as they were, so that its condition is that of the start. -/
theorem condition_midway (ev : RowEvent) (s : State) (n i : Nat) (r : RowRecord) (wide : Bool) :
    condition (midway ev s n) i r wide = condition s i r wide := by
  rw [midway_frame]
  have h : ∀ x, sourceFaulted
      { s with lkt := { s.lkt with rows := (midway ev s n).lkt.rows } } x = sourceFaulted s x := by
    intro x; cases x <;> rfl
  unfold condition
  rw [h]
  rfl

/-- A row's evaluation, in the words of the statements. -/
theorem evaluated_eq (s : State) (i : Nat) (r : RowRecord) (slot : RowSlot) :
    evaluated s i r slot =
      judged s.timeBase r (condition s i r false) (condition s i r true) slot := by
  unfold evaluated judged startTimer
  rcases slot with ⟨_ | _ | _ | _ | _ | _, k⟩ <;> dsimp only <;>
    cases condition s i r false <;> cases condition s i r true <;> rfl

/-- A row's evaluation in its turn. -/
theorem evaluated_midway (ev : RowEvent) (s : State) (n i : Nat) (r : RowRecord) (slot : RowSlot) :
    evaluated (midway ev s n) i r slot =
      judged s.timeBase r (condition s i r false) (condition s i r true) slot := by
  rw [evaluated_eq, condition_midway, condition_midway]
  congr 1
  rw [midway_frame]

/-- A row whose precursor is in effect or not as before has nothing to follow. -/
theorem afterPrecursor_same {before : List RowSlot} {m : State} {i : Nat} {r : RowRecord}
    {slot : RowSlot}
    (h : ∀ p ∈ r.precursor,
      inEffect (rowSlot m p).state = inEffect (before.getD p ⟨.off, none⟩).state) :
    afterPrecursor before m i r slot = slot := by
  unfold afterPrecursor
  cases hp : r.precursor with
  | none => rfl
  | some p =>
    dsimp only
    rw [h p (by simp [hp])]
    cases inEffect (before.getD p ⟨.off, none⟩).state <;> rfl

/-- A row that the event itself does not concern follows its precursor (R52, R54). -/
theorem follows_handleRows (ev : RowEvent) (s : State) (i : Nat) (hi : i < 24)
    (hl : s.lkt.rows.length = 24)
    (hev : ∀ m slot, atEvent ev m i (rowRecord (conf s) i) slot = slot) :
    Follows s (handleRows ev s) i := by
  have hrow := rowSlot_handleRows ev s i hi hl
  have hmid := fun p => rowSlot_midway ev s i p hi hl
  obtain ⟨l, hand, hframe⟩ : ∃ l hand, handleRows ev s = { s with lkt := l, hand := hand } :=
    ⟨_, _, (handleRows_handled ev s).2.2.2.2⟩
  have hlkt := handleRows_lkt ev s
  have hcond : ∀ wide, condition (handleRows ev s) i (rowRecord (conf s) i) wide =
      condition s i (rowRecord (conf s) i) wide := by
    intro wide
    have hs : ∀ x, sourceSlot (handleRows ev s) x = sourceSlot s x := by
      intro x; simp only [sourceSlot, hlkt.2.1]
    have hf : ∀ x, sourceFaulted (handleRows ev s) x = sourceFaulted s x := by
      intro x; rw [hframe]; cases x <;> rfl
    simp only [condition, tankDry, hs, hf]
  have hc : conf (handleRows ev s) = conf s := by rw [hframe]; rfl
  have ht : (handleRows ev s).timeBase = s.timeBase := by rw [hframe]
  unfold Follows
  rw [hc, ht, hlkt.2.2.1]
  simp only [hcond]
  rw [hev] at hrow
  refine ⟨fun hp => ?_, fun p hp hlt => ?_⟩
  · rw [hrow, afterPrecursor_same]
    intro p hpp
    rw [hmid]
    split
    · exact hp p hpp
    · rfl
  · have hm : rowSlot (midway ev s i) p = rowSlot (handleRows ev s) p := by rw [hmid, if_pos hlt]
    have hafter : rowSlot (handleRows ev s) i =
        match inEffect (rowSlot s p).state, inEffect (rowSlot (handleRows ev s) p).state with
        | true, false => precursorLeft (rowRecord (conf s) i) (rowSlot s i)
        | false, true => precursorCame (midway ev s i) i (rowRecord (conf s) i) (rowSlot s i)
        | _, _ => rowSlot s i := by
      rw [hrow]; unfold afterPrecursor; rw [hp, ← hm]; rfl
    refine ⟨fun h1 h2 => ?_, fun h1 h2 => ?_⟩
    · rw [h1, h2] at hafter
      rw [hafter]
      refine ⟨?_, fun h => by simp [precursorLeft, h], ?_⟩
      · rintro (h | h) <;> simp [precursorLeft, h]
      · rintro (h | h | h) <;> simp [precursorLeft, h]
    · rw [h1, h2] at hafter
      rw [hafter]
      refine ⟨fun h he hmk => ?_, fun h => ?_⟩
      · have hmode : (midway ev s i).lkt.mode = s.lkt.mode := by rw [midway_frame]
        rw [precursorCame, h]
        dsimp only
        rw [placed, he, hmode, hmk, hp]
        dsimp only
        rw [hm, h2, if_neg (by decide), if_pos rfl, evaluated_midway]
      · rcases hx : (rowSlot s i).state <;> simp_all [precursorCame]

/-- The source that arrives is kept, and a handling does not alter it. -/
theorem sourceSlot_lktTakesArrival (x : Source) (v : Option Int) (s : State)
    (hl : s.lkt.sources.length = 17) :
    sourceSlot (lktTakesArrival x v s) x =
      ⟨v, if sourceFaulted s x then (sourceSlot s x).lastGood else v⟩ := by
  have hx : sourceCode x < 17 := by cases x <;> decide
  simp only [sourceSlot, lktTakesArrival, (handleRows_lkt _ _).2.1, takeValue]
  rw [replaceAt_getD, if_pos ⟨rfl, by omega⟩]

end Sys2Proof.Machine
end

