-- ==== Sys2Proof/Laws/Copies.lean ====
section
/-! SUPPORT. The copies that the units hold of the mode, the block set, the supply and the fill: which
hand-overs bring them, and that every operation leaves them or keeps them in agreement. -/

namespace Sys2Proof.Machine

/-! ### Taking in order -/

/-- What is taken next is the oldest of its path: no hand-over before it has the same. -/
theorem takable_split (passed hand : List Handover) (h : Handover) (rest : List Handover)
    (hm : (h, rest) ∈ takable passed hand) :
    ∃ mid tail, passed ++ hand = mid ++ h :: tail ∧ rest = mid ++ tail ∧
      ∀ g ∈ mid, path g ≠ path h := by
  induction hand generalizing passed with
  | nil => simp [takable] at hm
  | cons a l ih =>
    unfold takable at hm
    have step : (h, rest) ∈ takable (passed ++ [a]) l → ∃ mid tail,
        passed ++ a :: l = mid ++ h :: tail ∧ rest = mid ++ tail ∧
          ∀ g ∈ mid, path g ≠ path h := by
      intro hm
      simpa using ih _ hm
    split at hm
    · exact step hm
    · rename_i hp
      simp only [List.mem_cons, Prod.mk.injEq] at hm
      rcases hm with ⟨rfl, rfl⟩ | hm
      · refine ⟨passed, l, rfl, rfl, fun g hg he => hp ?_⟩
        simp only [List.any_eq_true, beq_iff_eq]
        exact ⟨g, hg, he⟩
      · exact step hm

/-- The hand-over taken next is the oldest of its path, and the rest stands as it was. -/
theorem nextHandover_split {picks : List Nat} {hand rest : List Handover} {h : Handover}
    (hn : nextHandover picks hand = some (h, rest)) :
    ∃ mid tail, hand = mid ++ h :: tail ∧ rest = mid ++ tail ∧ ∀ g ∈ mid, path g ≠ path h :=
  takable_split [] hand h rest (List.mem_of_getElem? hn)

/-- A property that every hand-over taken in order keeps is kept by `settle`. -/
theorem settle_in_order (P : State → Prop)
    (hd : ∀ (h : Handover) (mid tail : List Handover) (s : State), P s →
      s.hand = mid ++ h :: tail → (∀ g ∈ mid, path g ≠ path h) →
      P (deliver h { s with hand := mid ++ tail }))
    (n : Nat) (picks : List Nat) (s : State) (hs : P s) : P (settle n picks s) := by
  induction n generalizing picks s with
  | zero => exact hs
  | succ n ih =>
    unfold settle
    split
    · exact hs
    · rename_i h rest heq
      obtain ⟨mid, tail, h1, rfl, h2⟩ := nextHandover_split heq
      exact ih _ _ (hd h mid tail s hs h1 h2)

/-- A property that time, the queue, every hand-over taken in order and every command's effect keep is
kept by every step. -/
theorem step_keeps_in_order (P : State → Prop)
    (hqueue : ∀ s rest, P s → P { s with pending := rest })
    (htime : ∀ dt s, P s → P (advance dt s))
    (hd : ∀ (h : Handover) (mid tail : List Handover) (s : State), P s →
      s.hand = mid ++ h :: tail → (∀ g ∈ mid, path g ≠ path h) →
      P (deliver h { s with hand := mid ++ tail }))
    (heffect : ∀ c s, P s → P (effectOf c s))
    {s t : State} (hs : P s) (h : step s = .next t) : P t := by
  have hpass : ∀ dt s, P s → P (pass dt s) := by
    intro dt s hs
    unfold pass
    refine htime _ _ ?_
    split
    · exact hs
    · exact settle_in_order P hd _ _ _ hs
  rcases step_cases h with ⟨-, rfl⟩ | ⟨c, rest, -, h⟩
  · exact hpass _ _ hs
  · rw [exec_next h, takeHandovers_eq]
    exact settle_in_order P hd _ _ _ (heffect _ _ (hpass _ _ (hqueue _ _ hs)))

/-! ### What is awaited -/

@[simp] theorem awaited_nil {α : Type} (f : Handover → Option α) (k : α) : awaited f k [] = k := rfl

@[simp] theorem awaited_append {α : Type} (f : Handover → Option α) (k : α) (a b : List Handover) :
    awaited f k (a ++ b) = awaited f (awaited f k a) b := by simp [awaited]

@[simp] theorem awaited_cons {α : Type} (f : Handover → Option α) (k : α) (h : Handover)
    (l : List Handover) : awaited f k (h :: l) = awaited f ((f h).getD k) l := rfl

/-- Hand-overs that bring nothing leave what is held. -/
theorem awaited_of_none {α : Type} (f : Handover → Option α) (k : α) (l : List Handover)
    (h : ∀ g ∈ l, f g = none) : awaited f k l = k := by
  induction l with
  | nil => rfl
  | cons g l ih =>
    rw [awaited_cons, h g (by simp)]
    exact ih (fun g hg => h g (by simp [hg]))

/-- A hand-over taken in order leaves what is awaited as it was. -/
theorem awaited_taken {α : Type} (f : Handover → Option α) (k : α) (h : Handover)
    (mid tail : List Handover) (hf : f h ≠ none → ∀ g ∈ mid, f g = none) :
    awaited f ((f h).getD k) (mid ++ tail) = awaited f k (mid ++ h :: tail) := by
  cases hh : f h with
  | none => simp [hh]
  | some x =>
    have hm := hf (by simp [hh])
    rw [awaited_append, awaited_append, awaited_cons, awaited_of_none f _ mid hm,
      awaited_of_none f _ mid hm, hh]

/-! ### The digest -/

/-- What the copies and what they copy come to. -/
structure Copies where
  mode : Mode
  modeLkt : Mode
  modeGov : Mode
  modeTnk : Mode
  blocks : BlockSet
  blocksSeq : BlockSet
  blocksGov : BlockSet
  blocksTnk : BlockSet
  supply : Supply
  supplyGov : Supply
  supplyLkt : Option Int
  fill : Bool
  fillLkt : Option Int
  sources : Nat
  stray : Bool
  deriving DecidableEq, Repr

/-- The copies in a state, as they will be with every hand-over under way taken. -/
def copies (s : State) : Copies :=
  { mode := s.seq.mode
    modeLkt := awaited modeForLkt s.lkt.mode s.hand
    modeGov := awaited modeForGov s.gov.mode s.hand
    modeTnk := awaited modeForTnk s.tnk.mode s.hand
    blocks := s.lkt.blocks
    blocksSeq := awaited blocksForSeq s.seq.blocks s.hand
    blocksGov := awaited blocksForGov s.gov.blocks s.hand
    blocksTnk := awaited blocksForTnk s.tnk.blocks s.hand
    supply := s.tnk.supply
    supplyGov := awaited supplyForGov s.gov.supply s.hand
    supplyLkt := awaited (valueForLkt .supply) (sourceSlot s .supply).latest s.hand
    fill := s.tnk.fill.isSome
    fillLkt := awaited (valueForLkt .fillActive) (sourceSlot s .fillActive).latest s.hand
    sources := s.lkt.sources.length
    stray := s.hand.any isStray }

/-- The copies agree. -/
def Copies.Agree (x : Copies) : Prop :=
  x.modeLkt = x.mode ∧ x.modeGov = x.mode ∧ x.modeTnk = x.mode ∧ x.blocksSeq = x.blocks ∧
  x.blocksGov = x.blocks ∧ x.blocksTnk = x.blocks ∧ x.supplyGov = x.supply ∧
  x.supplyLkt = some (supplyCode x.supply : Int) ∧ x.fillLkt = some (bit x.fill : Int) ∧
  x.sources = 17 ∧ x.stray = false

theorem copiesAgree_iff (s : State) : CopiesAgree s ↔ (copies s).Agree := Iff.rfl

/-- Copies that are the same agree alike. -/
theorem agree_of_eq {x y : Copies} (h : x = y) (hy : y.Agree) : x.Agree := h ▸ hy

/-- Whether a hand-over brings a copy. -/
def awaitedBy : Handover → Bool
  | .modeToLkt _ | .modeToGov _ | .modeToTnk _ | .blocksToSeq _ | .blocksToGov _ | .blocksToTnk _
  | .supplyToGov _ => true
  | .arrival _ x _ => x == .supply || x == .fillActive
  | .notice _ _ _ | .wordToSeq _ | .releaseToSeq | .speedToSeq | .pumpToSeq _
  | .dischargeToGov _ _ | .intakeToGov _ _ | .levelToTnk _ _ _ => false

@[simp] theorem copies_post (a b c d e s) : copies (post a b c d e s) = copies s := by
  simp [copies, post, handOver, modeForLkt, modeForGov, modeForTnk, blocksForSeq, blocksForGov,
    blocksForTnk, supplyForGov, valueForLkt, isStray, sourceSlot]

theorem copies_arrive (u : UnitName) {x : Source} (v s) (h1 : x ≠ .supply) (h2 : x ≠ .fillActive) :
    copies (arrive u x v s) = copies s := by
  simp [copies, arrive, handOver, modeForLkt, modeForGov, modeForTnk, blocksForSeq, blocksForGov,
    blocksForTnk, supplyForGov, valueForLkt, isStray, sourceSlot, h1, h2]

/-! ### SEQ -/

/-- SEQ's record changed but for its mode and its block set. -/
theorem copies_seq (s : State) (u : SeqUnit) (h1 : u.mode = s.seq.mode)
    (h2 : u.blocks = s.seq.blocks) : copies { s with seq := u } = copies s := by
  simp [copies, h1, h2, sourceSlot]


/-- A transition hands the mode on exactly if it changes it. -/
theorem agree_transition (m sub why) {s : State} (h : (copies s).Agree) :
    (copies (transition m sub why s)).Agree := by
  unfold transition
  dsimp only
  split
  · rename_i hm
    rw [copies_post]
    exact agree_of_eq (copies_seq s _ hm rfl) h
  · have hc : ∀ x : State, copies (handOver (.modeToTnk m) (handOver (.modeToGov m)
        (handOver (.modeToLkt m) x))) =
        { copies x with modeLkt := m, modeGov := m, modeTnk := m } := by
      intro x
      simp [copies, handOver, modeForLkt, modeForGov, modeForTnk, blocksForSeq, blocksForGov,
        blocksForTnk, supplyForGov, valueForLkt, isStray, sourceSlot]
    rw [hc, copies_post]
    exact ⟨rfl, rfl, rfl, h.2.2.2⟩

@[simp] theorem copies_postOutcome (e n s) : copies (postOutcome e n s) = copies s := by
  unfold postOutcome; split <;> simp
@[simp] theorem copies_closeRequest (e s) : copies (closeRequest e s) = copies s :=
  (copies_seq (postOutcome e 0 s) _ rfl rfl).trans (copies_postOutcome e 0 s)
@[simp] theorem copies_openRequest (p k s) : copies (openRequest p k s) = copies s :=
  copies_seq _ _ rfl rfl
@[simp] theorem copies_startRelease (s) : copies (startRelease s) = copies s :=
  copies_seq _ _ rfl rfl
@[simp] theorem copies_releaseToSeq (s) : copies (handOver .releaseToSeq s) = copies s := by
  simp [copies, handOver, modeForLkt, modeForGov, modeForTnk, blocksForSeq, blocksForGov,
    blocksForTnk, supplyForGov, valueForLkt, isStray, sourceSlot]

theorem agree_completeRelease {s : State} (h : (copies s).Agree) :
    (copies (completeRelease s)).Agree := by
  unfold completeRelease; rw [copies_closeRequest]; exact agree_transition _ _ _ h

theorem agree_rederive {s : State} (h : (copies s).Agree) : (copies (rederive s)).Agree := by
  unfold rederive; split
  · exact agree_transition _ _ _ h
  · exact h

theorem agree_releaseEntry {s : State} (h : (copies s).Agree) :
    (copies (releaseEntry s)).Agree := by
  unfold releaseEntry; split
  · rw [copies_startRelease]; exact h
  · exact agree_completeRelease (by rw [copies_startRelease]; exact h)

theorem agree_enterRelease (why) {s : State} (h : (copies s).Agree) :
    (copies (enterRelease why s)).Agree := agree_releaseEntry (agree_transition _ _ _ h)

theorem agree_leaveShift (why e) {s : State} (h : (copies s).Agree) :
    (copies (leaveShift why e s)).Agree := by
  unfold leaveShift; rw [copies_closeRequest]; exact agree_transition _ _ _ h

theorem agree_abandonShift (why e) {s : State} (h : (copies s).Agree) :
    (copies (abandonShift why e s)).Agree := agree_releaseEntry (agree_leaveShift _ _ h)

theorem agree_expireShift {s : State} (h : (copies s).Agree) :
    (copies (expireShift s)).Agree := by
  have := agree_leaveShift .timeout .timedOut h
  unfold expireShift; dsimp only; split <;> simpa using this

theorem agree_spinDownEntry {s : State} (h : (copies s).Agree) :
    (copies (spinDownEntry s)).Agree := by
  have h2 : ∀ u : SeqUnit, u.mode = s.seq.mode → u.blocks = s.seq.blocks →
      (copies { s with seq := u }).Agree := fun u h3 h4 =>
    agree_of_eq (copies_seq s u h3 h4) h
  unfold spinDownEntry; dsimp only; split
  · exact agree_enterRelease _ (h2 _ rfl rfl)
  · exact h2 _ rfl rfl

theorem agree_enterSpinDown (why) {s : State} (h : (copies s).Agree) :
    (copies (enterSpinDown why s)).Agree := agree_spinDownEntry (agree_transition _ _ _ h)

theorem agree_actOnPtoBlock {s : State} (h : (copies s).Agree) :
    (copies (actOnPtoBlock s)).Agree := by
  unfold actOnPtoBlock; split
  · split
    · exact agree_abandonShift _ _ h
    · exact agree_enterSpinDown _ h
    · exact agree_enterSpinDown _ h
    all_goals exact h
  · exact h

theorem agree_completeShift {s : State} (h : (copies s).Agree) :
    (copies (completeShift s)).Agree := by
  unfold completeShift
  exact agree_actOnPtoBlock (by rw [copies_closeRequest]; exact agree_transition _ _ _ h)

theorem agree_startShift (p) {s : State} (h : (copies s).Agree) :
    (copies (startShift p s)).Agree := by
  have h1 : (copies (transition .shiftingIn none .request (openRequest p .engage s))).Agree :=
    agree_transition _ _ _ (by rw [copies_openRequest]; exact h)
  have h2 : ∀ x : State, (copies x).Agree → ∀ u : SeqUnit, u.mode = x.seq.mode →
      u.blocks = x.seq.blocks → (copies { x with seq := u }).Agree := fun x hx u h3 h4 =>
    agree_of_eq (copies_seq x u h3 h4) hx
  unfold startShift; dsimp only; split
  · exact agree_actOnPtoBlock (h2 _ h1 _ rfl rfl)
  · split
    · exact agree_completeShift (h2 _ h1 _ rfl rfl)
    · exact h2 _ h1 _ rfl rfl

theorem agree_seqTakesWord (n) {s : State} (h : (copies s).Agree) :
    (copies (seqTakesWord n s)).Agree := by
  unfold seqTakesWord
  split
  · exact h
  · exact agree_rederive h
  · exact agree_rederive h
  · split
    · exact agree_completeShift h
    · split
      · exact h
      · exact agree_abandonShift _ _ h
  · split
    · exact h
    · exact agree_enterRelease _ h
  · split
    · exact h
    · exact agree_enterRelease _ h
  · split
    · exact h
    · split
      · exact agree_completeRelease h
      · exact agree_enterRelease _ h
  · split
    · exact h
    · exact agree_transition _ _ _ h

theorem agree_seqTakesRelease {s : State} (h : (copies s).Agree) :
    (copies (seqTakesRelease s)).Agree := by
  unfold seqTakesRelease; split
  · exact agree_completeRelease h
  · exact h

theorem agree_seqTakesPump (n) {s : State} (h : (copies s).Agree) :
    (copies (seqTakesPump n s)).Agree := by
  unfold seqTakesPump; split
  · exact agree_enterRelease _ h
  · exact h

@[simp] theorem copies_addCauseAll (c s) : copies (addCauseAll c s) = copies s := rfl

theorem agree_leaveInit {s : State} (h : (copies s).Agree) : (copies (leaveInit s)).Agree := by
  unfold leaveInit; split
  · exact agree_of_eq (copies_addCauseAll _ _) (agree_transition .stuck none .start h)
  · exact agree_transition _ _ _ h

/-! ### LKT -/

@[simp] theorem copies_treatRow (a b s i) : copies (treatRow a b s i) = copies s := rfl

theorem copies_foldl {α : Type} (f : State → α → State) (h : ∀ s a, copies (f s a) = copies s)
    (l : List α) (s) : copies (l.foldl f s) = copies s := by
  induction l generalizing s with
  | nil => rfl
  | cons a l ih => rw [List.foldl_cons, ih, h]

@[simp] theorem copies_treatRows (ev s) : copies (treatRows ev s) = copies s :=
  copies_foldl _ (fun s i => copies_treatRow _ _ s i) _ _
@[simp] theorem copies_noticeRow (a s i) : copies (noticeRow a s i) = copies s := by
  unfold noticeRow; split <;> simp
@[simp] theorem copies_noticeRows (b s) : copies (noticeRows b s) = copies s :=
  copies_foldl _ (fun s i => copies_noticeRow _ s i) _ _

/-- The block set goes to its three takers exactly if it has changed. -/
theorem agree_deriveBlocks {s : State} (h : (copies s).Agree) :
    (copies (deriveBlocks s)).Agree := by
  unfold deriveBlocks
  dsimp only
  split
  · rename_i hb
    have hc : ∀ u : LktUnit, u.blocks = s.lkt.blocks → u.mode = s.lkt.mode →
        u.sources = s.lkt.sources → copies { s with lkt := u } = copies s := by
      intro u h1 h2 h3
      simp [copies, h1, h2, h3, sourceSlot]
    exact agree_of_eq (hc _ hb rfl rfl) h
  · have hc : ∀ (b : BlockSet) (x : State), copies (handOver (.blocksToTnk b)
        (handOver (.blocksToGov b) (handOver (.blocksToSeq b) x))) =
        { copies x with blocksSeq := b, blocksGov := b, blocksTnk := b } := by
      intro b x
      simp [copies, handOver, modeForLkt, modeForGov, modeForTnk, blocksForSeq, blocksForGov,
        blocksForTnk, supplyForGov, valueForLkt, isStray, sourceSlot]
    rw [hc]
    exact ⟨h.1, h.2.1, h.2.2.1, rfl, rfl, rfl, h.2.2.2.2.2.2⟩

theorem agree_handleRows (ev) {s : State} (h : (copies s).Agree) :
    (copies (handleRows ev s)).Agree := by
  unfold handleRows
  exact agree_deriveBlocks (by rw [copies_noticeRows, copies_treatRows]; exact h)

theorem agree_placeTable {s : State} (h : (copies s).Agree) :
    (copies (placeTable s)).Agree := by
  unfold placeTable
  exact agree_deriveBlocks (by rw [copies_treatRows]; exact h)

/-! ### GOV -/

/-- GOV's record changed but for its copies. -/
theorem copies_gov (s : State) (g : GovUnit) (h1 : g.mode = s.gov.mode)
    (h2 : g.blocks = s.gov.blocks) (h3 : g.supply = s.gov.supply) :
    copies { s with gov := g } = copies s := by
  simp [copies, h1, h2, h3, sourceSlot]

@[simp] theorem copies_lio (s : State) (x) : copies { s with lio := x } = copies s := rfl

@[simp] theorem copies_setDemand (d s) : copies (setDemand d s) = copies s := by
  unfold setDemand; split
  · rfl
  · rw [copies_arrive _ _ _ (by decide) (by decide)]; rfl
@[simp] theorem copies_applyCeiling (s) : copies (applyCeiling s) = copies s := by
  unfold applyCeiling; dsimp only; rw [copies_setDemand]; rfl
@[simp] theorem copies_postGovernor (a b s) : copies (postGovernor a b s) = copies s :=
  copies_post _ _ _ _ _ _
@[simp] theorem copies_leaveRamp (x s) : copies (leaveRamp x s) = copies s := by
  unfold leaveRamp; rw [copies_applyCeiling]; rfl
@[simp] theorem copies_watchOff (s) : copies (watchOff s) = copies s := by
  unfold watchOff; rw [copies_leaveRamp]; split <;> simp
@[simp] theorem copies_setWatch (s) : copies (setWatch s) = copies s := by
  unfold setWatch; split <;> first | rfl | exact copies_watchOff _
@[simp] theorem copies_govTakesIntake (v f s) : copies (govTakesIntake v f s) = copies s := by
  unfold govTakesIntake; dsimp only
  repeat' split
  all_goals first
    | rfl
    | (rw [copies_leaveRamp, copies_postGovernor]; rfl)
    | (rw [copies_postGovernor]; rfl)
@[simp] theorem copies_governorUpdate (v s) : copies (governorUpdate v s) = copies s := by
  obtain ⟨d, g, h1, h2⟩ := governorUpdate_cases v s
  rw [h1, copies_setDemand, h2]
  rfl
@[simp] theorem copies_fallbackCheck (f s) : copies (fallbackCheck f s) = copies s := by
  unfold fallbackCheck; dsimp only; split
  · rw [copies_postGovernor]; rfl
  · rfl
@[simp] theorem copies_govTakesDischarge (v f s) :
    copies (govTakesDischarge v f s) = copies s := by
  unfold govTakesDischarge; split <;> simp
@[simp] theorem copies_govTakesCeiling (s) : copies (govTakesCeiling s) = copies s := by
  unfold govTakesCeiling; rw [copies_applyCeiling]; split <;> rfl
theorem copies_govTakesMode (m) (s : State) :
    copies (govTakesMode m s) = copies { s with gov := { s.gov with mode := m } } := by
  unfold govTakesMode; dsimp only
  split
  · rw [copies_applyCeiling, copies_setWatch, copies_setDemand]; rfl
  · split
    · rw [copies_watchOff, copies_setDemand]; rfl
    · rfl
theorem copies_govTakesBlocks (b) (s : State) :
    copies (govTakesBlocks b s) = copies { s with gov := { s.gov with blocks := b } } := by
  unfold govTakesBlocks; dsimp only; split <;> simp
theorem copies_govTakesSupply (x) (s : State) :
    copies (govTakesSupply x s) = copies { s with gov := { s.gov with supply := x } } := by
  unfold govTakesSupply; rw [copies_setWatch]

/-! ### TNK -/

/-- TNK's record changed but for its copies, its supply and whether a fill is open. -/
theorem copies_tnk (s : State) (u : TnkUnit) (h1 : u.mode = s.tnk.mode)
    (h2 : u.blocks = s.tnk.blocks) (h3 : u.supply = s.tnk.supply)
    (h4 : u.fill.isSome = s.tnk.fill.isSome) : copies { s with tnk := u } = copies s := by
  simp [copies, h1, h2, h3, h4, sourceSlot]

@[simp] theorem copies_commandTankValve (s) : copies (commandTankValve s) = copies s := rfl

theorem agree_endFill (why n) {s : State} (h : (copies s).Agree) :
    (copies (endFill why n s)).Agree := by
  unfold endFill; split
  · exact h
  · have hc : ∀ x : State, copies (arrive .tnk .fillActive (some 0) x) =
        { copies x with fillLkt := some 0 } := by
      intro x
      simp [copies, arrive, handOver, modeForLkt, modeForGov, modeForTnk, blocksForSeq,
        blocksForGov, blocksForTnk, supplyForGov, valueForLkt, isStray, sourceSlot]
    rw [hc, copies_post]
    exact ⟨h.1, h.2.1, h.2.2.1, h.2.2.2.1, h.2.2.2.2.1, h.2.2.2.2.2.1, h.2.2.2.2.2.2.1,
      h.2.2.2.2.2.2.2.1, rfl, h.2.2.2.2.2.2.2.2.2⟩

theorem agree_openFill (p n) {s : State} (h : (copies s).Agree) :
    (copies (openFill p n s)).Agree := by
  have hc : ∀ x : State, copies (arrive .tnk .fillActive (some 1) x) =
      { copies x with fillLkt := some 1 } := by
    intro x
    simp [copies, arrive, handOver, modeForLkt, modeForGov, modeForTnk, blocksForSeq,
      blocksForGov, blocksForTnk, supplyForGov, valueForLkt, isStray, sourceSlot]
  unfold openFill
  rw [hc]
  exact ⟨h.1, h.2.1, h.2.2.1, h.2.2.2.1, h.2.2.2.2.1, h.2.2.2.2.2.1, h.2.2.2.2.2.2.1,
    h.2.2.2.2.2.2.2.1, rfl, h.2.2.2.2.2.2.2.2.2⟩

@[simp] theorem copies_suspendStall (s) : copies (suspendStall s) = copies s := by
  unfold suspendStall
  split
  · rfl
  · rename_i hf
    split <;> first | rfl | exact copies_tnk _ _ rfl rfl rfl (by simp [hf])
@[simp] theorem copies_stallCheck (s) : copies (stallCheck s) = copies s := by
  unfold stallCheck
  split
  · rfl
  · rename_i hf
    split <;> first | rfl | exact copies_tnk _ _ rfl rfl rfl (by simp [hf])

theorem agree_checkFill {s : State} (h : (copies s).Agree) : (copies (checkFill s)).Agree := by
  unfold checkFill
  repeat' split
  all_goals first | exact h | exact agree_endFill _ _ h | (rw [copies_stallCheck]; exact h)

@[simp] theorem copies_checkGaugesIf (l s) : copies (checkGaugesIf l s) = copies s := by
  unfold checkGaugesIf checkGauges
  split
  · rfl
  · dsimp only
    repeat' split
    all_goals first | rfl | (rw [copies_post]; rfl)

theorem copies_handTank (n) {a b : Source} (l old new s) (ha : a ≠ .supply ∧ a ≠ .fillActive)
    (hb : b ≠ .supply ∧ b ≠ .fillActive) : copies (handTank n a b l old new s) = copies s := by
  unfold handTank; dsimp only
  repeat' split
  all_goals simp [copies_arrive _ _ _ ha.1 ha.2, copies_arrive _ _ _ hb.1 hb.2]

theorem agree_tnkTakesLevel (n v f) {s : State} (h : (copies s).Agree) :
    (copies (tnkTakesLevel n v f s)).Agree := by
  have h0 : ∀ x : State, (copies x).Agree → (copies (recomputeTank0 x)).Agree := fun x hx => by
    unfold recomputeTank0
    refine agree_checkFill ?_
    rw [copies_handTank _ _ _ _ _ (by decide) (by decide), copies_checkGaugesIf]
    exact hx
  have h1 : ∀ x : State, (copies x).Agree → (copies (recomputeTank1 x)).Agree := fun x hx => by
    unfold recomputeTank1
    dsimp only
    rw [copies_handTank _ _ _ _ _ (by decide) (by decide)]
    exact hx
  unfold tnkTakesLevel; dsimp only
  split
  · exact h0 _ h
  · exact h0 _ h
  · exact h0 _ h
  · exact h1 _ h
  · exact h

theorem agree_tnkTakesMode (m) {s : State}
    (h : (copies { s with tnk := { s.tnk with mode := m } }).Agree) :
    (copies (tnkTakesMode m s)).Agree := by
  unfold tnkTakesMode; dsimp only; split
  · rw [copies_suspendStall]; exact h
  · exact agree_endFill _ _ h

theorem agree_tnkTakesBlocks (b) {s : State}
    (h : (copies { s with tnk := { s.tnk with blocks := b } }).Agree) :
    (copies (tnkTakesBlocks b s)).Agree := by
  unfold tnkTakesBlocks; dsimp only; split
  · exact agree_endFill _ _ h
  · exact h

@[simp] theorem copies_tnkTakesFull (s) : copies (tnkTakesFull s) = copies s := by
  unfold tnkTakesFull; split
  · rfl
  · rename_i hf; exact copies_tnk _ _ rfl rfl rfl (by simp [hf])

theorem agree_changeSupply (x) {s : State} (h : (copies s).Agree) :
    (copies (changeSupply x s)).Agree := by
  unfold changeSupply; split
  · exact h
  · have hc : ∀ y : State, copies (handOver (.supplyToGov x)
        (arrive .tnk .supply (some (supplyCode x)) y)) =
        { copies y with supplyGov := x, supplyLkt := some (supplyCode x : Int) } := by
      intro y
      simp [copies, arrive, handOver, modeForLkt, modeForGov, modeForTnk, blocksForSeq,
        blocksForGov, blocksForTnk, supplyForGov, valueForLkt, isStray, sourceSlot]
    rw [hc, copies_suspendStall, copies_commandTankValve]
    exact ⟨h.1, h.2.1, h.2.2.1, h.2.2.2.1, h.2.2.2.2.1, h.2.2.2.2.2.1, rfl, rfl,
      h.2.2.2.2.2.2.2.2⟩

/-! ### NTQ, SPD, LIO and CNV -/

@[simp] theorem copies_placeNotice (n d s) : copies (placeNotice n d s) = copies s := by
  have h : ∀ (p : Port) (s : State), copies (placeFor n d p s) = copies s := by
    intro p s; unfold placeFor; split <;> rfl
  simp [placeNotice, h]

/-- A hand-over that brings no copy. -/
theorem copies_handOver {h : Handover} (s) (hh : awaitedBy h = false) :
    copies (handOver h s) = copies s := by
  cases h <;> simp only [awaitedBy, reduceCtorEq, Bool.or_eq_false_iff, beq_eq_false_iff_ne] at hh
  case arrival u x v => exact copies_arrive u v s hh.1 hh.2
  all_goals
    simp [copies, handOver, modeForLkt, modeForGov, modeForTnk, blocksForSeq, blocksForGov,
      blocksForTnk, supplyForGov, valueForLkt, isStray, sourceSlot]

@[simp] theorem copies_recomputeSpeed (c u s) : copies (recomputeSpeed c u s) = copies s := by
  have h : ∀ (x : Bool) (g : Handover) (s : State), awaitedBy g = false →
      copies (if x then handOver g s else s) = copies s := by
    intro x g s hg
    cases x
    · rfl
    · exact copies_handOver s hg
  unfold recomputeSpeed handSpeed arrive
  dsimp only
  rw [show ∀ (x : Bool) (k n v d) (s : State), copies (if x then post .spd k n v d s else s) =
    copies s from fun x k n v d s => h x _ s rfl]
  rw [h _ _ _ rfl, h _ _ _ rfl, h _ _ _ rfl, h _ _ _ rfl]
  rfl

@[simp] theorem copies_publishWord (s) : copies (publishWord s) = copies s := by
  unfold publishWord
  rw [copies_arrive _ _ _ (by decide) (by decide), copies_handOver _ rfl]
@[simp] theorem copies_publishPump (s) : copies (publishPump s) = copies s := by
  unfold publishPump
  rw [copies_arrive _ _ _ (by decide) (by decide), copies_handOver _ rfl]
@[simp] theorem copies_takeCode (n c s) : copies (takeCode n c s) = copies s := by
  unfold takeCode publishChannel
  dsimp only
  have h : ∀ (o k : Channel) (x : State), copies (postSensor n c o k x) = copies x := by
    intro o k x; unfold postSensor; split <;> simp
  split
  all_goals
    first
    | rw [copies_arrive _ _ _ (by decide) (by decide), copies_handOver _ rfl]
    | rw [copies_arrive _ _ _ (by decide) (by decide)]
    | rw [copies_handOver _ rfl]
    rw [h]
    rfl

/-! ### Taking a hand-over -/

/-- Before a hand-over taken in order stands none that brings the same copy. -/
theorem copies_taken {h : Handover} {mid tail : List Handover} {s : State}
    (heq : s.hand = mid ++ h :: tail) (hp : ∀ g ∈ mid, path g ≠ path h)
    (hs : s.hand.any isStray = false) :
    copies s =
      { mode := s.seq.mode
        modeLkt := awaited modeForLkt ((modeForLkt h).getD s.lkt.mode) (mid ++ tail)
        modeGov := awaited modeForGov ((modeForGov h).getD s.gov.mode) (mid ++ tail)
        modeTnk := awaited modeForTnk ((modeForTnk h).getD s.tnk.mode) (mid ++ tail)
        blocks := s.lkt.blocks
        blocksSeq := awaited blocksForSeq ((blocksForSeq h).getD s.seq.blocks) (mid ++ tail)
        blocksGov := awaited blocksForGov ((blocksForGov h).getD s.gov.blocks) (mid ++ tail)
        blocksTnk := awaited blocksForTnk ((blocksForTnk h).getD s.tnk.blocks) (mid ++ tail)
        supply := s.tnk.supply
        supplyGov := awaited supplyForGov ((supplyForGov h).getD s.gov.supply) (mid ++ tail)
        supplyLkt := awaited (valueForLkt .supply)
          ((valueForLkt .supply h).getD (sourceSlot s .supply).latest) (mid ++ tail)
        fill := s.tnk.fill.isSome
        fillLkt := awaited (valueForLkt .fillActive)
          ((valueForLkt .fillActive h).getD (sourceSlot s .fillActive).latest) (mid ++ tail)
        sources := s.lkt.sources.length
        stray := (mid ++ tail).any isStray } := by
  have hstray : (mid ++ tail).any isStray = false := by
    rw [heq] at hs
    simp only [List.any_append, List.any_cons, Bool.or_eq_false_iff] at hs ⊢
    exact ⟨hs.1, hs.2.2⟩
  have key : ∀ {α : Type} (f : Handover → Option α) (k : α) (u v : UnitName),
      (∀ g ∈ s.hand, f g ≠ none → path g = (u, v)) →
      awaited f k s.hand = awaited f ((f h).getD k) (mid ++ tail) := by
    intro α f k u v hf
    rw [heq]
    refine (awaited_taken f k h mid tail fun hh g hg => ?_).symm
    by_contra hne
    refine hp g hg ?_
    rw [hf g (by rw [heq]; simp [hg]) hne, hf h (by rw [heq]; simp) hh]
  have hsource : ∀ x : Source, x = .supply ∨ x = .fillActive → ∀ g ∈ s.hand,
      valueForLkt x g ≠ none → path g = (.tnk, .lkt) := by
    intro x hx g hg hne
    have hn : isStray g = false := by
      by_contra hc
      rw [Bool.not_eq_false] at hc
      have : s.hand.any isStray = true := List.any_eq_true.2 ⟨g, hg, hc⟩
      rw [this] at hs; cases hs
    cases g <;> simp only [valueForLkt, ne_eq, not_true_eq_false] at hne
    rename_i u y v
    have hy : y = x := by by_contra h; simp [h] at hne
    subst hy
    rcases hx with rfl | rfl <;> simpa [isStray, path] using hn
  unfold copies
  rw [key modeForLkt _ .seq .lkt, key modeForGov _ .seq .gov, key modeForTnk _ .seq .tnk,
    key blocksForSeq _ .lkt .seq, key blocksForGov _ .lkt .gov, key blocksForTnk _ .lkt .tnk,
    key supplyForGov _ .tnk .gov, key (valueForLkt .supply) _ .tnk .lkt (hsource _ (.inl rfl)),
    key (valueForLkt .fillActive) _ .tnk .lkt (hsource _ (.inr rfl)), hs, hstray]
  all_goals
    intro g _ hg
    cases g <;> first | rfl | exact absurd rfl hg

/-- An arrival taken in order by LKT. -/
theorem copies_takeValue {u : UnitName} {x : Source} {v : Option Int} {mid tail : List Handover}
    {s : State} (heq : s.hand = mid ++ .arrival u x v :: tail)
    (hp : ∀ g ∈ mid, path g ≠ path (.arrival u x v)) (hs : s.hand.any isStray = false)
    (hl : s.lkt.sources.length = 17) :
    copies (takeValue x v { s with hand := mid ++ tail }) = copies s := by
  have hslot : ∀ y : Source,
      (sourceSlot (takeValue x v { s with hand := mid ++ tail }) y).latest =
        if x = y then v else (sourceSlot s y).latest := by
    intro y
    have hc : sourceCode y < 17 := by cases y <;> decide
    have hinj : sourceCode x = sourceCode y ↔ x = y := by
      refine ⟨fun h => ?_, fun h => by rw [h]⟩
      have hback : ∀ z : Source, sourceOfCode (sourceCode z) = some z := by
        intro z; cases z <;> rfl
      have hx := hback x
      rw [h, hback y] at hx
      exact (Option.some.inj hx).symm
    simp only [sourceSlot, takeValue]
    rw [replaceAt_getD]
    by_cases hxy : x = y
    · subst hxy; rw [if_pos ⟨rfl, by omega⟩, if_pos rfl]
    · rw [if_neg (fun h => hxy (hinj.1 h.1)), if_neg hxy]
  rw [copies_taken heq hp hs]
  have hlen : (takeValue x v { s with hand := mid ++ tail }).lkt.sources.length =
      s.lkt.sources.length := by simp [takeValue]
  unfold copies
  rw [hslot, hslot, hlen]
  simp only [takeValue, modeForLkt, modeForGov, modeForTnk, blocksForSeq, blocksForGov,
    blocksForTnk, supplyForGov, valueForLkt, Option.getD_none]
  congr 1 <;> split <;> simp_all

/-- A hand-over taken in order keeps the copies in agreement. -/
theorem agree_deliver {h : Handover} {mid tail : List Handover} {s : State}
    (hs : (copies s).Agree) (heq : s.hand = mid ++ h :: tail)
    (hp : ∀ g ∈ mid, path g ≠ path h) :
    (copies (deliver h { s with hand := mid ++ tail })).Agree := by
  have ht := copies_taken heq hp hs.2.2.2.2.2.2.2.2.2.2
  have plain : awaitedBy h = false → (copies { s with hand := mid ++ tail }).Agree := by
    intro hh
    refine agree_of_eq ?_ hs
    rw [ht]
    cases h <;>
      simp only [awaitedBy, reduceCtorEq, Bool.or_eq_false_iff, beq_eq_false_iff_ne] at hh <;>
      simp [copies, modeForLkt, modeForGov, modeForTnk, blocksForSeq, blocksForGov,
        blocksForTnk, supplyForGov, valueForLkt, sourceSlot, hh]
  cases h with
  | notice u n d => exact agree_of_eq (copies_placeNotice _ _ _) (plain rfl)
  | wordToSeq w => exact agree_seqTakesWord _ (plain rfl)
  | releaseToSeq => exact agree_seqTakesRelease (plain rfl)
  | speedToSeq => exact agree_rederive (plain rfl)
  | pumpToSeq n => exact agree_seqTakesPump _ (plain rfl)
  | blocksToSeq b => exact agree_actOnPtoBlock (agree_of_eq ht.symm hs)
  | blocksToGov b =>
    exact agree_of_eq ((copies_govTakesBlocks _ _).trans ht.symm) hs
  | blocksToTnk b => exact agree_tnkTakesBlocks _ (agree_of_eq ht.symm hs)
  | arrival u x v =>
    refine agree_handleRows (.arrival x) (s := takeValue x v { s with hand := mid ++ tail }) ?_
    exact agree_of_eq
      (copies_takeValue heq hp hs.2.2.2.2.2.2.2.2.2.2 hs.2.2.2.2.2.2.2.2.2.1) hs
  | modeToLkt m =>
    refine agree_handleRows .modeChange
      (s := { s with hand := mid ++ tail, lkt := { s.lkt with mode := m } }) ?_
    exact agree_of_eq ht.symm hs
  | modeToGov m => exact agree_of_eq ((copies_govTakesMode _ _).trans ht.symm) hs
  | modeToTnk m => exact agree_tnkTakesMode _ (agree_of_eq ht.symm hs)
  | dischargeToGov v f => exact agree_of_eq (copies_govTakesDischarge _ _ _) (plain rfl)
  | intakeToGov v f => exact agree_of_eq (copies_govTakesIntake _ _ _) (plain rfl)
  | levelToTnk n v f => exact agree_tnkTakesLevel _ _ _ (plain rfl)
  | supplyToGov x => exact agree_of_eq ((copies_govTakesSupply _ _).trans ht.symm) hs

end Sys2Proof.Machine
end

