-- ==== Sys2Proof/Laws/Handed.lean ====
section
/-! SUPPORT. What a conversion, a recomputation of a tank, a fill's ending and a change of supply change and hand on, each as one
record. -/

namespace Sys2Proof.Machine

/-! ### CNV -/

/-- A conversion of a channel (R131 to R134). -/
theorem takeCode_eq (channel code : Nat) (hc : channel < 8) (s : State) :
    takeCode channel code s =
      (let old := channelOf s channel
      let new := converted ((conf s).calibration.getD channel ⟨0, 0, 0, 0⟩) channel code old
      { s with
        cnv := { s.cnv with channels := replaceAt s.cnv.channels channel new }
        hand := s.hand ++ conversionHandovers s channel code old new }) := by
  unfold takeCode conversionHandovers
  dsimp only
  generalize converted _ _ _ _ = new
  generalize channelOf s channel = old
  have hs : ∀ what, sensorSubject what channel = channel + 16 * (what % 16) := by
    intro what
    simp only [sensorSubject, packFields]
    omega
  have h : channel = 0 ∨ channel = 1 ∨ channel = 2 ∨ channel = 3 ∨ channel = 4 ∨ channel = 5 ∨
      channel = 6 ∨ channel = 7 := by omega
  rcases h with rfl | rfl | rfl | rfl | rfl | rfl | rfl | rfl <;>
    cases ho : old.faulted <;> cases hn : new.faulted <;>
    simp [postSensor, publishChannel, arrive, handOver, post, notice, lowWord, hs, ho, hn]

/-! ### TNK -/

/-- The ending of an open fill (R109). -/
theorem endFill_eq {s : State} {f : Fill} (hf : s.tnk.fill = some f) (why : FillEnding)
    {stopper : Nat} (hs : stopper < 16) :
    endFill why stopper s = { s with
      tnk := { s.tnk with fill := none, fillValve := false }
      hand := s.hand ++ endingHandovers s f why stopper } := by
  have hw : endedSubject why stopper = fillEndingCode why + 16 * stopper := by
    have : fillEndingCode why < 16 := by cases why <;> decide
    simp only [endedSubject, packFields]
    omega
  simp [endFill, hf, arrive, handOver, post, notice, lowWord, endingHandovers, hw]

/-- What a recomputation of a tank hands on (R100, points 2 and 3). -/
theorem handTank_eq (number : Nat) (volume state : Source) {combined : Option Int} {old new : Tank}
    (s : State) (h : new.l = combined) :
    handTank number volume state combined old new s =
      { s with hand := s.hand ++ tankHandovers s number volume state old new } := by
  have hw : ∀ a b : TankState, bytesWord (tankStateCode a) (tankStateCode b) =
      wordOfNat (256 * tankStateCode a + tankStateCode b) := by
    intro a b; cases a <;> cases b <;> decide
  subst h
  unfold handTank tankHandovers
  by_cases hn : new.state = old.state
  · rw [if_pos hn, if_pos hn]
    cases hl : new.l <;> by_cases ho : old.state = .unknown <;> simp [arrive, handOver, ho]
  · rw [if_neg hn, if_neg hn]
    cases hl : new.l <;> by_cases ho : old.state = .unknown <;>
      simp [arrive, handOver, post, notice, lowWord, hw, ho]

/-- The gauge disagreement check changes the episode and hands on its SENSOR (R92). -/
theorem checkGaugesIf_eq (l : Option Int) (s : State) :
    checkGaugesIf l s =
      (let episode := (checkGaugesIf l s).tnk.episode
      { s with
        tnk := { s.tnk with episode := episode }
        hand := s.hand ++ if s.tnk.episode = false ∧ episode = true then
          [notice s .tnk .sensor 3 (wordOfInt (s.tnk.centre.level.getD 0 - l.getD 0)) .subscribers]
          else [] }) := by
  cases l with
  | none => simp [checkGaugesIf]
  | some l =>
    simp only [checkGaugesIf, checkGauges]
    split
    · split
      · cases h : s.tnk.episode
        · simp [post, handOver, notice, lowWord, packFields]
        · simp [h]
          rw [← h]
      · simp
    · simp

/-- Tank 0's record, the episode and the hand-overs of a recomputation, before the ending checks
(R100, points 1 to 3). -/
theorem recomputeTank0_eq (s : State) :
    ∃ m : State, recomputeTank0 s = checkFill m ∧
      m = { s with
        tnk := { s.tnk with
          tank0 := tankAfter (filterFactor s) (conf s).strap0 (conf s).tank0 s.tnk.tank0
            (combinedLevel s.tnk.front s.tnk.centre s.tnk.rear)
          episode := m.tnk.episode }
        hand := s.hand ++ tank0Handovers s m } := by
  refine ⟨_, rfl, ?_⟩
  generalize combinedLevel s.tnk.front s.tnk.centre s.tnk.rear = l
  generalize hn : tankAfter (filterFactor s) (conf s).strap0 (conf s).tank0 s.tnk.tank0 l = new
  have hl : new.l = l := by subst hn; cases l <;> rfl
  rw [handTank_eq _ _ _ _ hl, checkGaugesIf_eq]
  subst hl
  simp [tank0Handovers, tankHandovers, notice]

/-- The ending checks of a fill (R106, R107): the fill and its valve, and the hand-overs of an
ending. -/
theorem checkFill_eq (m : State) :
    checkFill m = { m with
      tnk := { m.tnk with
        fill := (checkFill m).tnk.fill, fillValve := (checkFill m).tnk.fillValve }
      hand := (checkFill m).hand } := by
  unfold checkFill stallCheck
  cases hf : m.tnk.fill with
  | none => simp
  | some f =>
    simp only [endFill_eq hf _ (by decide : 0 < 16)]
    repeat' split
    all_goals simp

/-- A change of supply (R101, R102, R108). -/
theorem changeSupply_eq {x : Supply} {s : State} (hx : x ≠ s.tnk.supply) :
    changeSupply x s = { s with
      tnk := { s.tnk with
        supply := x
        tankValve := tankValveFor x s.tnk.mode s.tnk.blocks
        fill := (suspendStall { s with tnk := { s.tnk with supply := x } }).tnk.fill }
      hand := s.hand ++ [.arrival .tnk .supply (some (supplyCode x)), .supplyToGov x] } := by
  unfold changeSupply
  rw [if_neg hx]
  unfold suspendStall commandTankValve
  dsimp only
  cases hf : s.tnk.fill with
  | none => simp [arrive, handOver]
  | some f =>
    cases hs : f.suspended <;> cases hx : stallSuspended x s.tnk.mode <;>
      simp [arrive, handOver, restartStall, conf, startTimer, hs]

end Sys2Proof.Machine
end

