-- ==== Sys2Proof/Laws/Potential.lean ====
section
/-! SUPPORT. The hand-overs of a step come to an end: each one taken lowers a measure of those under way and of
those that can still follow. -/

namespace Sys2Proof.Machine

/-! ### The measure -/

/-- What a hand-over can cost: itself and all that taking it may hand on, but for what the caps
below pay for. -/
def weight : Handover → Nat
  | .notice _ _ _ => 1
  | .wordToSeq _ => 501
  | .releaseToSeq => 101
  | .speedToSeq => 101
  | .pumpToSeq _ => 201
  | .blocksToSeq _ => 1
  | .blocksToGov _ => 1
  | .blocksToTnk _ => 1
  | .arrival _ _ _ => 28
  | .modeToLkt _ => 28
  | .modeToGov _ => 30
  | .modeToTnk _ => 1
  | .dischargeToGov _ _ => 87
  | .intakeToGov _ _ => 30
  | .levelToTnk _ _ _ => 59
  | .supplyToGov _ => 30

/-- The hand-overs under way. -/
def load (hand : List Handover) : Nat := (hand.map weight).sum

/-- What a PTO block can still bring about (R24). -/
def seqCap : Mode → Nat
  | .shiftingIn | .pump | .roll => 200
  | .init | .road | .parked | .disengaging | .stuck => 0

/-- How often the demand can still fall (R78): to the ceiling and to 0. -/
def govCap (ceiling : Nat) (g : GovUnit) : Nat :=
  if g.d = 0 then 0 else if g.d ≤ min ceiling g.cIntake then 28 else 56

/-- What the end of an open fill brings about (R109). -/
def fillCap (f : Option Fill) : Nat := if f.isSome then 29 else 0

/-- The measure. -/
def potential (s : State) : Nat :=
  load s.hand + seqCap s.seq.mode + govCap (conf s).gains.ceiling s.gov + fillCap s.tnk.fill

theorem seqCap_le (m : Mode) : seqCap m ≤ 200 := by cases m <;> decide

@[simp] theorem seqCap_disengaging : seqCap .disengaging = 0 := rfl

@[simp] theorem seqCap_pump : seqCap .pump = 200 := rfl

@[simp] theorem seqCap_shiftingIn : seqCap .shiftingIn = 200 := rfl

theorem govCap_le (c : Nat) (g : GovUnit) : govCap c g ≤ 56 := by
  unfold govCap; repeat' split
  all_goals omega

theorem fillCap_le (f : Option Fill) : fillCap f ≤ 29 := by unfold fillCap; split <;> omega

@[simp] theorem load_append (a b : List Handover) : load (a ++ b) = load a + load b := by
  simp [load]

@[simp] theorem load_single (h : Handover) : load [h] = weight h := by simp [load]

@[simp] theorem potential_handOver (h : Handover) (s : State) :
    potential (handOver h s) = potential s + weight h := by
  simp [potential, conf]; omega

@[simp] theorem potential_post (x : UnitName) (k : NoticeKind) (n : Nat) (v : Word) (d : Addressee)
    (s : State) : potential (post x k n v d s) = potential s + 1 := potential_handOver _ _

@[simp] theorem potential_postGovernor (n : Nat) (v : Int) (s : State) :
    potential (postGovernor n v s) = potential s + 1 := potential_handOver _ _

@[simp] theorem potential_arrive (x : UnitName) (c : Source) (v : Option Int) (s : State) :
    potential (arrive x c v s) = potential s + 28 := potential_handOver _ _

/-! ### SEQ -/

theorem potential_seq (s : State) (u : SeqUnit) (h : u.mode = s.seq.mode) :
    potential { s with seq := u } = potential s := by simp [potential, conf, h]

theorem potential_transition (m : Mode) (sub : Option SubStage) (why : Reason) (s : State) :
    potential (transition m sub why s) + seqCap s.seq.mode ≤ potential s + seqCap m + 60 := by
  unfold transition
  dsimp only
  split <;> simp [weight] <;> simp [potential, conf] <;> omega

theorem potential_postOutcome (e : Ending) (n : Nat) (s : State) :
    potential (postOutcome e n s) ≤ potential s + 1 := by
  unfold postOutcome; split <;> simp

theorem potential_closeRequest (e : Ending) (s : State) :
    potential (closeRequest e s) ≤ potential s + 1 := by
  unfold closeRequest
  dsimp only
  rw [potential_seq (h := by rfl)]
  exact potential_postOutcome _ _ _

theorem potential_openRequest (p : Port) (k : OperationKind) (s : State) :
    potential (openRequest p k s) = potential s := potential_seq _ _ rfl

theorem derivedMode_standing (s : State) : derivedMode s = .parked ∨ derivedMode s = .road := by
  unfold derivedMode; split <;> simp

theorem seqCap_derivedMode (s : State) : seqCap (derivedMode s) = 0 := by
  rcases derivedMode_standing s with h | h <;> rw [h] <;> rfl

theorem potential_rederive (s : State) : potential (rederive s) ≤ potential s + 60 := by
  unfold rederive
  split
  · have := potential_transition (derivedMode s) none .condition s
    rw [seqCap_derivedMode] at this
    omega
  · omega

theorem potential_completeRelease (s : State) :
    potential (completeRelease s) + seqCap s.seq.mode ≤ potential s + 61 := by
  have h1 := potential_closeRequest .completed (transition (derivedMode s) none .condition s)
  have h2 := potential_transition (derivedMode s) none .condition s
  rw [seqCap_derivedMode] at h2
  unfold completeRelease
  omega

theorem potential_releaseEntry (s : State) : potential (releaseEntry s) ≤ potential s + 61 := by
  have h : potential (startRelease s) = potential s := potential_seq _ _ rfl
  unfold releaseEntry
  split
  · omega
  · refine Nat.le_trans (Nat.le_trans (Nat.le_add_right _ _) (potential_completeRelease _)) ?_
    rw [h]

theorem potential_enterRelease (why : Reason) (s : State) :
    potential (enterRelease why s) + seqCap s.seq.mode ≤ potential s + 121 := by
  have h1 := potential_releaseEntry (transition .disengaging (some .release) why s)
  have h2 := potential_transition .disengaging (some .release) why s
  simp only [seqCap_disengaging, seqCap_pump, seqCap_shiftingIn] at h2
  unfold enterRelease
  omega

theorem potential_abandonShift (why : Reason) (e : Ending) (s : State) :
    potential (abandonShift why e s) + seqCap s.seq.mode ≤ potential s + 122 := by
  have h1 := potential_releaseEntry
    (closeRequest e (transition .disengaging (some .release) why s))
  have h2 := potential_closeRequest e (transition .disengaging (some .release) why s)
  have h3 := potential_transition .disengaging (some .release) why s
  simp only [seqCap_disengaging, seqCap_pump, seqCap_shiftingIn] at h3
  unfold abandonShift leaveShift
  omega

theorem potential_spinDownEntry (s : State) : potential (spinDownEntry s) ≤ potential s + 121 := by
  unfold spinDownEntry
  dsimp only
  split
  · refine Nat.le_trans (Nat.le_trans (Nat.le_add_right _ _) (potential_enterRelease _ _)) ?_
    rw [potential_seq (h := by rfl)]
  · rw [potential_seq (h := by rfl)]; omega

theorem potential_enterSpinDown (why : Reason) (s : State) :
    potential (enterSpinDown why s) + seqCap s.seq.mode ≤ potential s + 181 := by
  have h1 := potential_spinDownEntry (transition .disengaging (some .spinDown) why s)
  have h2 := potential_transition .disengaging (some .spinDown) why s
  simp only [seqCap_disengaging, seqCap_pump, seqCap_shiftingIn] at h2
  unfold enterSpinDown
  omega

theorem potential_actOnPtoBlock (s : State) : potential (actOnPtoBlock s) ≤ potential s := by
  unfold actOnPtoBlock
  split
  · split
    · rename_i h; have := potential_abandonShift .block .aborted s; simp [h, seqCap] at this; omega
    · rename_i h; have := potential_enterSpinDown .block s; simp [h, seqCap] at this; omega
    · rename_i h; have := potential_enterSpinDown .block s; simp [h, seqCap] at this; omega
    all_goals exact Nat.le_refl _
  · exact Nat.le_refl _

theorem potential_completeShift (s : State) :
    potential (completeShift s) ≤ potential s + 261 := by
  have h1 := potential_actOnPtoBlock
    (closeRequest .completed (transition .pump none .condition s))
  have h2 := potential_closeRequest .completed (transition .pump none .condition s)
  have h3 := potential_transition .pump none .condition s
  simp only [seqCap_disengaging, seqCap_pump, seqCap_shiftingIn] at h3
  unfold completeShift
  omega

theorem potential_startShift (p : Port) (s : State) :
    potential (startShift p s) ≤ potential s + 600 := by
  have h1 := potential_transition .shiftingIn none .request (openRequest p .engage s)
  rw [potential_openRequest] at h1
  simp only [seqCap_disengaging, seqCap_pump, seqCap_shiftingIn] at h1
  unfold startShift
  dsimp only
  split
  · refine Nat.le_trans (potential_actOnPtoBlock _) ?_
    rw [potential_seq (h := by rfl)]; omega
  · split
    · refine Nat.le_trans (potential_completeShift _) ?_
      rw [potential_seq (h := by rfl)]; omega
    · rw [potential_seq (h := by rfl)]; omega

theorem potential_seqTakesWord (word : Nat) (s : State) :
    potential (seqTakesWord word s) ≤ potential s + 500 := by
  have h1 := potential_rederive s
  have h2 := potential_completeShift s
  have h3 := potential_abandonShift .condition .aborted s
  have h4 := potential_enterRelease .feedbackLost s
  have h5 := potential_completeRelease s
  have h6 := potential_transition (derivedMode s) none .condition s
  rw [seqCap_derivedMode] at h6
  unfold seqTakesWord
  repeat' split
  all_goals omega

theorem potential_seqTakesRelease (s : State) :
    potential (seqTakesRelease s) ≤ potential s + 61 := by
  have := potential_completeRelease s
  unfold seqTakesRelease
  split <;> omega

theorem potential_seqTakesPump (n : Nat) (s : State) :
    potential (seqTakesPump n s) ≤ potential s + 200 := by
  have := potential_enterRelease .condition s
  unfold seqTakesPump
  split <;> omega

theorem potential_seqTakesBlocks (b : BlockSet) (s : State) :
    potential (seqTakesBlocks b s) ≤ potential s := by
  unfold seqTakesBlocks
  refine Nat.le_trans (potential_actOnPtoBlock _) ?_
  rw [potential_seq (h := by rfl)]

/-! ### LKT -/

theorem potential_lkt (s : State) (u : LktUnit) : potential { s with lkt := u } = potential s := rfl

theorem potential_treatRows_aux (before : List RowSlot) (ev : RowEvent) (l : List Nat) (s : State) :
    potential (l.foldl (treatRow before ev) s) = potential s := by
  induction l generalizing s with
  | nil => rfl
  | cons i l ih => rw [List.foldl_cons, ih]; rfl

theorem potential_noticeRows_aux (before : List RowSlot) (l : List Nat) (s : State) :
    potential (l.foldl (noticeRow before) s) ≤ potential s + l.length := by
  induction l generalizing s with
  | nil => exact Nat.le_refl _
  | cons i l ih =>
    have h := ih (noticeRow before s i)
    have h2 : potential (noticeRow before s i) ≤ potential s + 1 := by
      unfold noticeRow; split <;> simp
    simp only [List.foldl_cons, List.length_cons]
    omega

theorem potential_deriveBlocks (s : State) : potential (deriveBlocks s) ≤ potential s + 3 := by
  unfold deriveBlocks
  dsimp only
  split
  · rw [potential_lkt]; omega
  · simp only [potential_handOver, potential_lkt, weight]; omega

theorem potential_handleRows (ev : RowEvent) (s : State) :
    potential (handleRows ev s) ≤ potential s + 27 := by
  have h1 := potential_deriveBlocks (noticeRows s.lkt.rows (treatRows ev s))
  have h2 := potential_noticeRows_aux s.lkt.rows (List.range 24) (treatRows ev s)
  have h3 : potential (treatRows ev s) = potential s := potential_treatRows_aux _ _ _ _
  simp only [List.length_range] at h2
  unfold handleRows
  unfold noticeRows at *
  omega

theorem potential_placeTable (s : State) : potential (placeTable s) ≤ potential s + 3 := by
  have h1 := potential_deriveBlocks (treatRows .placeAll s)
  have h3 : potential (treatRows .placeAll s) = potential s := potential_treatRows_aux _ _ _ _
  unfold placeTable
  omega

/-! ### GOV -/

theorem govCap_zero (c : Nat) (g : GovUnit) (h : g.d = 0) : govCap c g = 0 := by
  simp [govCap, h]

theorem govCap_pos (c : Nat) (g : GovUnit) (h : g.d ≠ 0) : 28 ≤ govCap c g := by
  unfold govCap
  rw [if_neg h]
  split <;> omega

theorem govCap_low (c : Nat) (g : GovUnit) (h : g.d ≤ min c g.cIntake) : govCap c g ≤ 28 := by
  unfold govCap
  rw [if_pos h]
  split <;> omega

theorem govCap_high (c : Nat) (g : GovUnit) (h : min c g.cIntake < g.d) : govCap c g = 56 := by
  unfold govCap
  rw [if_neg (by omega), if_neg (by omega)]

/-- GOV and the THROTTLE line replaced. -/
theorem potential_govLio (s : State) (g : GovUnit) (l : LioUnit) :
    potential { s with gov := g, lio := l } + govCap (conf s).gains.ceiling s.gov =
      potential s + govCap (conf s).gains.ceiling g := by
  simp only [potential, conf]; omega

/-- GOV replaced. -/
theorem potential_govAny (s : State) (g : GovUnit) :
    potential { s with gov := g } + govCap (conf s).gains.ceiling s.gov =
      potential s + govCap (conf s).gains.ceiling g := by
  simp only [potential, conf]; omega

theorem potential_gov (s : State) (g : GovUnit) (h1 : g.d = s.gov.d)
    (h2 : g.cIntake = s.gov.cIntake) : potential { s with gov := g } = potential s := by
  have h := potential_govAny s g
  have h3 : govCap (conf s).gains.ceiling g = govCap (conf s).gains.ceiling s.gov := by
    simp [govCap, h1, h2]
  omega

theorem potential_setDemand_zero (s : State) : potential (setDemand 0 s) ≤ potential s := by
  unfold setDemand
  split
  · exact Nat.le_refl _
  · rename_i h
    rw [potential_arrive]
    have h1 := potential_govLio s { s.gov with d := 0 }
      { s.lio with throttle := commandThrottle 0 s.lio.throttle }
    have h2 := govCap_zero (conf s).gains.ceiling { s.gov with d := 0 } rfl
    have h3 := govCap_pos (conf s).gains.ceiling s.gov (Ne.symm h)
    omega

theorem potential_applyCeiling (s : State) : potential (applyCeiling s) ≤ potential s := by
  unfold applyCeiling setDemand
  dsimp only
  split
  · rw [potential_gov (h1 := by rfl) (h2 := by rfl)]
  · rename_i h
    rw [potential_arrive]
    have key : ∀ (g : GovUnit) (l : LioUnit),
        govCap (conf s).gains.ceiling g + 28 ≤ govCap (conf s).gains.ceiling s.gov →
        potential { s with gov := g, lio := l } + 28 ≤ potential s := fun g l hg => by
      have := potential_govLio s g l
      omega
    refine key _ _ ?_
    by_cases hb : holdsBlock s.gov.blocks .throttle = true
    · rw [govCap_zero _ _ (by simp [ceilingFor, hb])]
      have := govCap_pos (conf s).gains.ceiling s.gov (by
        intro h0; apply h; simp [h0])
      omega
    · have hc : ceilingFor (conf s).gains.ceiling s.gov.cIntake s.gov.blocks =
          min (conf s).gains.ceiling s.gov.cIntake := by simp [ceilingFor, hb]
      rw [hc] at h ⊢
      rw [govCap_high _ s.gov (by omega)]
      have low : ∀ g : GovUnit, g.d ≤ min (conf s).gains.ceiling g.cIntake →
          govCap (conf s).gains.ceiling g + 28 ≤ 56 := fun g hg => by
        have := govCap_low _ g hg
        omega
      exact low _ (Nat.min_le_right _ _)

theorem potential_leaveRamp (x : IntakeWatch) (s : State) :
    potential (leaveRamp x s) ≤ potential s + 28 := by
  have key : ∀ g : GovUnit, g.d = s.gov.d →
      potential { s with gov := g } ≤ potential s + 28 := fun g hg => by
    have h1 := potential_govAny s g
    by_cases h0 : s.gov.d = 0
    · rw [govCap_zero _ g (by rw [hg, h0])] at h1
      omega
    · have h3 := govCap_pos (conf s).gains.ceiling s.gov h0
      have h4 := govCap_le (conf s).gains.ceiling g
      omega
  unfold leaveRamp
  exact Nat.le_trans (potential_applyCeiling _) (key _ rfl)

theorem potential_watchOff (s : State) : potential (watchOff s) ≤ potential s + 29 := by
  unfold watchOff
  refine Nat.le_trans (potential_leaveRamp _ _) ?_
  split <;> simp

theorem potential_setWatch (s : State) : potential (setWatch s) ≤ potential s + 29 := by
  have := potential_watchOff s
  unfold setWatch
  split
  · rw [potential_gov (h1 := by rfl) (h2 := by rfl)]; omega
  all_goals omega

theorem potential_govTakesIntake (v : Int) (faulted : Bool) (s : State) :
    potential (govTakesIntake v faulted s) ≤ potential s + 29 := by
  have key : ∀ (x : IntakeWatch) (n : Nat) (s : State),
      potential (leaveRamp x (postGovernor n v s)) ≤ potential s + 29 := fun x n s => by
    have := potential_leaveRamp x (postGovernor n v s)
    rw [potential_postGovernor] at this; omega
  have low : ∀ (x : IntakeWatch) (n : Nat) (s : State),
      potential (postGovernor n v { s with gov := { s.gov with watch := x } }) ≤
        potential s + 29 := fun x n s => by
    rw [potential_postGovernor, potential_gov (h1 := by rfl) (h2 := by rfl)]; omega
  unfold govTakesIntake
  dsimp only
  have hs : potential { s with gov := { s.gov with lastIntake := v } } = potential s :=
    potential_gov _ _ rfl rfl
  have hs29 : potential { s with gov := { s.gov with lastIntake := v } } ≤ potential s + 29 := by
    omega
  have key2 : ∀ (x : IntakeWatch) (n : Nat),
      potential (leaveRamp x (postGovernor n v
        { s with gov := { s.gov with lastIntake := v } })) ≤ potential s + 29 :=
    fun x n => hs ▸ key x n _
  have low2 : ∀ (x : IntakeWatch) (n : Nat),
      potential (postGovernor n v { s with gov := { s.gov with lastIntake := v, watch := x } }) ≤
        potential s + 29 :=
    fun x n => hs ▸ low x n { s with gov := { s.gov with lastIntake := v } }
  cases s.gov.watch <;> dsimp only
  · exact hs29
  · split
    · exact key2 _ _
    · split
      · exact low2 _ _
      · exact hs29
  · split
    · exact key2 _ _
    · split
      · exact hs29
      · exact key2 _ _
  · split
    · exact hs29
    · split
      · exact low2 _ _
      · exact low2 _ _

theorem potential_fallbackCheck (faulted : Bool) (s : State) :
    potential (fallbackCheck faulted s) ≤ potential s + 1 := by
  unfold fallbackCheck
  dsimp only
  split
  · rw [potential_postGovernor, potential_gov (h1 := by rfl) (h2 := by rfl)]
  · rw [potential_gov (h1 := by rfl) (h2 := by rfl)]; omega

theorem potential_governorUpdate (pd : Int) (s : State) :
    potential (governorUpdate pd s) ≤ potential s + 84 := by
  have key : ∀ (d : Nat) (g : GovUnit),
      potential (setDemand d { s with gov := g }) ≤ potential s + 84 := by
    intro d g
    unfold setDemand
    split
    · have h1 := potential_govAny s g
      have h2 := govCap_le (conf s).gains.ceiling g
      omega
    · rw [potential_arrive]
      have h1 := potential_govLio s { g with d := d }
        { s.lio with throttle := commandThrottle d s.lio.throttle }
      have h2 := govCap_le (conf s).gains.ceiling { g with d := d }
      dsimp only at *
      omega
  unfold governorUpdate rampIntake
  dsimp only
  split <;> exact key _ _

theorem potential_govTakesDischarge (v : Int) (faulted : Bool) (s : State) :
    potential (govTakesDischarge v faulted s) ≤ potential s + 86 := by
  have h1 := potential_fallbackCheck faulted s
  have h2 := potential_governorUpdate v (fallbackCheck faulted s)
  unfold govTakesDischarge
  split <;> omega

theorem potential_govTakesMode (m : Mode) (s : State) :
    potential (govTakesMode m s) ≤ potential s + 29 := by
  unfold govTakesMode
  dsimp only
  split
  · refine Nat.le_trans (potential_applyCeiling _) ?_
    refine Nat.le_trans (potential_setWatch _) ?_
    refine Nat.add_le_add_right ?_ _
    have key : ∀ g : GovUnit, g.d = s.gov.d →
        potential (setDemand 0 { s with gov := g }) ≤ potential s := by
      intro g hg
      have h1 := potential_govAny s g
      by_cases h0 : s.gov.d = 0
      · refine Nat.le_trans (potential_setDemand_zero _) ?_
        rw [govCap_zero _ g (by rw [hg, h0])] at h1
        omega
      · unfold setDemand
        dsimp only
        rw [if_neg (by rw [hg]; exact Ne.symm h0), potential_arrive]
        have h2 := potential_govLio s { g with d := 0 }
          { s.lio with throttle := commandThrottle 0 s.lio.throttle }
        have h3 := govCap_zero (conf s).gains.ceiling { g with d := 0 } rfl
        have h4 := govCap_pos (conf s).gains.ceiling s.gov h0
        dsimp only at *
        omega
    exact key _ rfl
  · split
    · refine Nat.le_trans (potential_watchOff _) ?_
      refine Nat.add_le_add_right ?_ _
      refine Nat.le_trans (potential_setDemand_zero _) ?_
      rw [potential_gov (h1 := by rfl) (h2 := by rfl)]
    · rw [potential_gov (h1 := by rfl) (h2 := by rfl)]; omega

theorem potential_govTakesBlocks (b : BlockSet) (s : State) :
    potential (govTakesBlocks b s) ≤ potential s := by
  unfold govTakesBlocks
  dsimp only
  split
  · rw [potential_gov (h1 := by rfl) (h2 := by rfl)]
  · refine Nat.le_trans (potential_applyCeiling _) ?_
    rw [potential_gov (h1 := by rfl) (h2 := by rfl)]

theorem potential_govTakesSupply (x : Supply) (s : State) :
    potential (govTakesSupply x s) ≤ potential s + 29 := by
  unfold govTakesSupply
  refine Nat.le_trans (potential_setWatch _) ?_
  rw [potential_gov (h1 := by rfl) (h2 := by rfl)]

/-! ### TNK -/

theorem potential_tnk (s : State) (u : TnkUnit) (h : u.fill.isSome = s.tnk.fill.isSome) :
    potential { s with tnk := u } = potential s := by
  simp [potential, conf, fillCap, h]

theorem potential_endFill (why : FillEnding) (n : Nat) (s : State) :
    potential (endFill why n s) ≤ potential s := by
  unfold endFill
  split
  · exact Nat.le_refl _
  · rename_i f h
    rw [potential_arrive, potential_post]
    simp [potential, conf, fillCap, h]

theorem potential_suspendStall (s : State) : potential (suspendStall s) = potential s := by
  unfold suspendStall
  split
  · rfl
  · rename_i f h
    split
    · exact potential_tnk _ _ (by simp [h])
    · exact potential_tnk _ _ (by simp [h])
    · rfl
    · rfl

theorem potential_commandTankValve (s : State) : potential (commandTankValve s) = potential s :=
  potential_tnk _ _ rfl

theorem potential_checkFill (s : State) : potential (checkFill s) ≤ potential s := by
  unfold checkFill
  repeat' split
  · exact Nat.le_refl _
  · exact potential_endFill _ _ _
  · exact potential_endFill _ _ _
  · exact potential_endFill _ _ _
  · unfold stallCheck
    split
    · exact Nat.le_refl _
    · rename_i f h
      split
      · rw [potential_tnk (h := by simp [h])]
      · exact Nat.le_refl _

theorem potential_checkGaugesIf (l : Option Int) (s : State) :
    potential (checkGaugesIf l s) ≤ potential s + 1 := by
  unfold checkGaugesIf
  split
  · omega
  · unfold checkGauges
    dsimp only
    repeat' split
    · omega
    · rw [potential_post, potential_tnk (h := by rfl)]
    · rw [potential_tnk (h := by rfl)]; omega
    · omega

theorem potential_handTank (n : Nat) (a b : Source) (l : Option Int) (old new : Tank) (s : State) :
    potential (handTank n a b l old new s) ≤ potential s + 57 := by
  unfold handTank
  dsimp only
  repeat' split
  all_goals simp

theorem potential_tnkTakesLevel (n : Nat) (v : Int) (faulted : Bool) (s : State) :
    potential (tnkTakesLevel n v faulted s) ≤ potential s + 58 := by
  have h0 : ∀ t : State, potential (recomputeTank0 t) ≤ potential t + 58 := by
    intro t
    unfold recomputeTank0
    refine Nat.le_trans (potential_checkFill _) ?_
    refine Nat.le_trans (potential_handTank _ _ _ _ _ _ _) ?_
    have key : ∀ (l : Option Int) (u : TnkUnit), u.fill.isSome = t.tnk.fill.isSome →
        potential (checkGaugesIf l { t with tnk := u }) ≤ potential t + 1 := fun l u hu => by
      have := potential_checkGaugesIf l { t with tnk := u }
      rwa [potential_tnk _ _ hu] at this
    exact Nat.add_le_add_right (key _ _ (by rfl)) 57
  have h1 : ∀ t : State, potential (recomputeTank1 t) ≤ potential t + 58 := by
    intro t
    unfold recomputeTank1
    refine Nat.le_trans (potential_handTank _ _ _ _ _ _ _) ?_
    rw [potential_tnk (h := by rfl)]; omega
  unfold tnkTakesLevel
  dsimp only
  split
  · refine Nat.le_trans (h0 _) ?_; rw [potential_tnk (h := by rfl)]
  · refine Nat.le_trans (h0 _) ?_; rw [potential_tnk (h := by rfl)]
  · refine Nat.le_trans (h0 _) ?_; rw [potential_tnk (h := by rfl)]
  · refine Nat.le_trans (h1 _) ?_; rw [potential_tnk (h := by rfl)]
  · omega

theorem potential_tnkTakesMode (m : Mode) (s : State) :
    potential (tnkTakesMode m s) ≤ potential s := by
  have h : potential (commandTankValve { s with tnk := { s.tnk with mode := m } }) =
      potential s := by
    rw [potential_commandTankValve, potential_tnk (h := by rfl)]
  unfold tnkTakesMode
  dsimp only
  split
  · rw [potential_suspendStall, h]
  · exact Nat.le_trans (potential_endFill _ _ _) (Nat.le_of_eq h)

theorem potential_tnkTakesBlocks (b : BlockSet) (s : State) :
    potential (tnkTakesBlocks b s) ≤ potential s := by
  have h : potential (commandTankValve { s with tnk := { s.tnk with blocks := b } }) =
      potential s := by
    rw [potential_commandTankValve, potential_tnk (h := by rfl)]
  unfold tnkTakesBlocks
  dsimp only
  split
  · exact Nat.le_trans (potential_endFill _ _ _) (Nat.le_of_eq h)
  · exact Nat.le_of_eq h

/-! ### NTQ -/

theorem potential_placeNotice (n : Notice) (dest : Addressee) (s : State) :
    potential (placeNotice n dest s) = potential s := by
  have h : ∀ (p : Port) (s : State), potential (placeFor n dest p s) = potential s := by
    intro p s; unfold placeFor; split <;> rfl
  simp [placeNotice, h]

/-! ### Taking a hand-over -/

/-- Taking a hand-over hands on less than it was worth. -/
theorem potential_deliver (h : Handover) (s : State) :
    potential (deliver h s) + 1 ≤ potential s + weight h := by
  cases h with
  | notice x n d => simp [deliver, weight, potential_placeNotice]
  | wordToSeq word => have := potential_seqTakesWord word s; simp only [deliver, weight]; omega
  | releaseToSeq => have := potential_seqTakesRelease s; simp only [deliver, weight]; omega
  | speedToSeq => have := potential_rederive s; simp only [deliver, weight]; omega
  | pumpToSeq np => have := potential_seqTakesPump np s; simp only [deliver, weight]; omega
  | blocksToSeq b => have := potential_seqTakesBlocks b s; simp only [deliver, weight]; omega
  | blocksToGov b => have := potential_govTakesBlocks b s; simp only [deliver, weight]; omega
  | blocksToTnk b => have := potential_tnkTakesBlocks b s; simp only [deliver, weight]; omega
  | arrival x c v =>
    have := potential_handleRows (.arrival c) (takeValue c v s)
    simp only [takeValue, potential_lkt] at this
    simp only [deliver, weight, lktTakesArrival, takeValue]
    omega
  | modeToLkt m =>
    have := potential_handleRows .modeChange { s with lkt := { s.lkt with mode := m } }
    simp only [potential_lkt] at this
    simp only [deliver, weight, lktTakesMode]
    omega
  | modeToGov m => have := potential_govTakesMode m s; simp only [deliver, weight]; omega
  | modeToTnk m => have := potential_tnkTakesMode m s; simp only [deliver, weight]; omega
  | dischargeToGov v f =>
    have := potential_govTakesDischarge v f s; simp only [deliver, weight]; omega
  | intakeToGov v f => have := potential_govTakesIntake v f s; simp only [deliver, weight]; omega
  | levelToTnk n v f =>
    have := potential_tnkTakesLevel n v f s; simp only [deliver, weight]; omega
  | supplyToGov x => have := potential_govTakesSupply x s; simp only [deliver, weight]; omega

/-! ### settle -/

/-- What is taken and what then waits weigh together what was under way. -/
theorem takable_load (passed hand : List Handover) (h : Handover) (rest : List Handover)
    (hm : (h, rest) ∈ takable passed hand) :
    load rest + weight h = load passed + load hand := by
  induction hand generalizing passed with
  | nil => simp [takable] at hm
  | cons a l ih =>
    unfold takable at hm
    have hload : load (a :: l) = weight a + load l := by simp [load]
    split at hm
    · have := ih _ hm
      rw [load_append, load_single] at this
      omega
    · simp only [List.mem_cons, Prod.mk.injEq] at hm
      rcases hm with ⟨rfl, rfl⟩ | hm
      · rw [load_append, hload]; omega
      · have := ih _ hm
        rw [load_append, load_single] at this
        omega

/-- While something is handed on, something can be taken. -/
theorem takable_length_pos (hand : List Handover) (h : hand ≠ []) :
    0 < (takable [] hand).length := by
  cases hand with
  | nil => exact absurd rfl h
  | cons a l => simp [takable]

/-- With nothing to take nothing is under way. -/
theorem hand_of_nextHandover_none {picks : List Nat} {hand : List Handover}
    (h : nextHandover picks hand = none) : hand = [] := by
  by_contra hne
  have hpos := takable_length_pos hand hne
  unfold nextHandover at h
  have := Nat.mod_lt (picks.headD 0) hpos
  simp only [List.getElem?_eq_none_iff] at h
  omega

/-- The hand-overs of a step are all taken when the bound is no less than the measure. -/
theorem settle_hand (n : Nat) (picks : List Nat) (s : State) (h : potential s ≤ n) :
    (settle n picks s).hand = [] := by
  have weight_pos : ∀ h : Handover, 1 ≤ weight h := by intro h; cases h <;> simp [weight]
  induction n generalizing picks s with
  | zero =>
    cases hs : s.hand with
    | nil => exact hs
    | cons a l =>
      have := weight_pos a
      simp only [potential, hs, load, List.map_cons, List.sum_cons] at h
      omega
  | succ n ih =>
    unfold settle
    split
    · rename_i hn; exact hand_of_nextHandover_none hn
    · rename_i g rest hn
      refine ih _ _ ?_
      have h1 := potential_deliver g { s with hand := rest }
      have h2 := takable_load [] s.hand g rest (List.mem_of_getElem? hn)
      have h3 : potential { s with hand := rest } + load s.hand = potential s + load rest := by
        simp only [potential, conf]; omega
      have h4 : load [] = 0 := rfl
      omega

/-- The hand-overs under way weigh at most 501 each. -/
theorem load_le (hand : List Handover) : load hand ≤ 501 * hand.length := by
  induction hand with
  | nil => simp [load]
  | cons h l ih =>
    have h1 : weight h ≤ 501 := by cases h <;> simp [weight]
    simp only [load, List.map_cons, List.sum_cons, List.length_cons] at *
    omega

/-- The bound is no less than the measure. -/
theorem potential_le_settleBound (s : State) : potential s ≤ settleBound s := by
  have h1 := load_le s.hand
  have h2 := seqCap_le s.seq.mode
  have h3 := govCap_le (conf s).gains.ceiling s.gov
  have h4 := fillCap_le s.tnk.fill
  unfold potential settleBound
  omega

/-- Every hand-over is taken. -/
@[simp] theorem settleAll_hand (picks : List Nat) (s : State) : (settleAll picks s).hand = [] :=
  settle_hand _ _ _ (potential_le_settleBound s)

end Sys2Proof.Machine
end

