-- ==== Sys2Proof/Laws/Seq.lean ====
section
/-! SUPPORT. What SEQ's shared operations do: a transition, an outcome, the entry into RELEASE and the
abandoning of a shift-in, each as one record of what changes and what is handed on. -/

namespace Sys2Proof.Machine

/-! ### Words -/

/-- The value of MODE_CHANGED in arithmetic. -/
theorem bytesWord_modeByte (m m0 : Mode) (sub sub0 : Option SubStage) :
    bytesWord (modeByte m sub) (modeByte m0 sub0) =
      wordOfNat
        (256 * (modeCode m + 8 * subStageCode sub) + (modeCode m0 + 8 * subStageCode sub0)) := by
  have h : ∀ (m : Mode) (sub : Option SubStage),
      modeByte m sub = modeCode m + 8 * subStageCode sub ∧
        modeCode m + 8 * subStageCode sub < 256 := by
    intro m sub
    rcases sub with _ | sub
    · cases m <;> decide
    · cases m <;> cases sub <;> decide
  unfold bytesWord packWord
  congr 1
  obtain ⟨h1, h2⟩ := h m sub
  obtain ⟨h3, h4⟩ := h m0 sub0
  simp only [packFields, h1, h3]
  omega

/-- The value of REQUEST_OUTCOME in arithmetic. -/
theorem bytesWord_endingCode (e : Ending) {n : Nat} (hn : n < 256) :
    bytesWord n (endingCode e) = wordOfNat (256 * n + endingCode e) := by
  unfold bytesWord packWord
  congr 1
  have : endingCode e < 256 := by cases e <;> decide
  simp only [packFields]
  omega

/-! ### One transition, one outcome -/

/-- A transition changes SEQ's record, posts MODE_CHANGED and hands on a change of the mode. -/
theorem transition_eq (m : Mode) (sub : Option SubStage) (why : Reason) (s : State) :
    transition m sub why s = { s with
      seq := { s.seq with
        mode := m, sub := sub, reason := why
        startWait := if m = .init then s.seq.startWait else none
        shiftTimer := if m = .shiftingIn then s.seq.shiftTimer else none
        spinLimit := if sub = some .spinDown then s.seq.spinLimit else none
        releaseTimer := if sub = some .release then s.seq.releaseTimer else none
        ptoShift := ptoShiftFor m sub
        pumpReady := pumpReadyFor m s.seq.blocks }
      hand := s.hand ++ modeNotice s why m sub s.seq.mode s.seq.sub ::
        if m = s.seq.mode then [] else modeHandovers m } := by
  unfold transition
  dsimp only
  split <;> simp [post, handOver, modeNotice, notice, bytesWord_modeByte, lowWord, modeHandovers]

/-- An outcome is one notice to the holder of the open request, none where none is open. -/
theorem postOutcome_eq (e : Ending) {n : Nat} (hn : n < 256) (s : State) :
    postOutcome e n s = { s with hand := s.hand ++ outcomeNotices s s.seq.request e n } := by
  unfold postOutcome outcomeNotices
  cases s.seq.request
  · simp
  · simp [post, handOver, notice, bytesWord_endingCode _ hn, lowWord]

/-- A request is closed with its outcome. -/
theorem closeRequest_eq (e : Ending) (s : State) :
    closeRequest e s = { s with
      seq := { s.seq with request := none }
      hand := s.hand ++ outcomeNotices s s.seq.request e 0 } := by
  unfold closeRequest
  rw [postOutcome_eq _ (by decide)]

/-! ### Derived modes -/

/-- The derivation gives PARKED or ROAD. -/
theorem derivedMode_cases (s : State) : derivedMode s = .parked ∨ derivedMode s = .road := by
  unfold derivedMode; split <;> simp

/-- A transition to the derived mode leaves no timer running and no command on. -/
theorem transition_derived (why : Reason) (s : State) (m0 : Mode)
    (hm : m0 = derivedMode s) (hd : s.seq.mode ≠ m0) :
    transition m0 none why s = { s with
      seq := { restingSeq s with reason := why, request := s.seq.request }
      hand := s.hand ++ modeNotice s why m0 none s.seq.mode s.seq.sub :: modeHandovers m0 } := by
  subst hm
  rw [transition_eq]
  rcases derivedMode_cases s with h | h <;> rw [h] at hd ⊢ <;>
    simp [restingSeq, h, ptoShiftFor, pumpReadyFor, Ne.symm hd]

/-- A release that completes. -/
theorem completeRelease_eq {s : State} (hd : standing s.seq.mode = false) :
    completeRelease s = { s with
      seq := restingSeq s
      hand := s.hand ++ modeNotice s .condition (derivedMode s) none s.seq.mode s.seq.sub ::
        modeHandovers (derivedMode s) ++ outcomeNotices s s.seq.request .completed 0 } := by
  unfold completeRelease
  rw [closeRequest_eq, transition_derived _ _ _ rfl ?_]
  · simp [restingSeq, derivedMode, secured, outcomeNotices, notice]
  · intro h
    rw [h] at hd
    rcases derivedMode_cases s with h' | h' <;> rw [h'] at hd <;> exact absurd hd (by decide)

/-! ### The entry into RELEASE -/

/-- What follows a transition into RELEASE, the hand-overs up to it being `pre` and the request then
open `r`. -/
theorem releaseEntry_eq (s : State) (pre : List Handover) (r : Option OpenRequest) (why : Reason)
    (t : State)
    (ht : t = { s with
      seq := { s.seq with
        mode := .disengaging, sub := some .release, reason := why, request := r, startWait := none
        shiftTimer := none, spinLimit := none, releaseTimer := t.seq.releaseTimer
        ptoShift := false, pumpReady := false }
      hand := pre }) :
    releaseEntry t =
      if feedback s then { s with seq := releasingSeq s why r, hand := pre }
      else { s with
        seq := restingSeq s
        hand := pre ++ modeNotice s .condition (derivedMode s) none .disengaging (some .release) ::
          modeHandovers (derivedMode s) ++ outcomeNotices s r .completed 0 } := by
  generalize t.seq.releaseTimer = k at ht
  subst ht
  unfold releaseEntry startRelease
  show (if feedback s = true then _ else _) = _
  by_cases hf : feedback s = true
  · rw [if_pos hf, if_pos hf]; rfl
  · rw [if_neg hf, if_neg hf, completeRelease_eq (by rfl)]
    rfl

/-- An entry into RELEASE. -/
theorem enterRelease_eq (why : Reason) (s : State) :
    enterRelease why s = releaseOutcome s why s.seq.request [] [] := by
  unfold enterRelease
  rw [releaseEntry_eq s (s.hand ++ modeNotice s why .disengaging (some .release) s.seq.mode
    s.seq.sub :: (if s.seq.mode = .disengaging then [] else modeHandovers .disengaging))
    s.seq.request why _ ?_]
  · unfold releaseOutcome
    dsimp only
    split <;> simp
  · rw [transition_eq]
    simp [ptoShiftFor, pumpReadyFor, eq_comm (a := Mode.disengaging)]

/-- An abandoned shift-in. -/
theorem abandonShift_eq (why : Reason) (e : Ending) (s : State) :
    abandonShift why e s =
      releaseOutcome s why none [] (outcomeNotices s s.seq.request e 0) := by
  unfold abandonShift leaveShift
  rw [releaseEntry_eq s (s.hand ++ modeNotice s why .disengaging (some .release) s.seq.mode
    s.seq.sub :: (if s.seq.mode = .disengaging then [] else modeHandovers .disengaging) ++
      outcomeNotices s s.seq.request e 0) none why _ ?_]
  · unfold releaseOutcome
    dsimp only
    split <;> simp
  · rw [closeRequest_eq, transition_eq]
    simp [ptoShiftFor, pumpReadyFor, outcomeNotices, notice, eq_comm (a := Mode.disengaging)]

/-- A shift-in whose timer has expired (R12, R20). -/
theorem expireShift_eq (s : State) :
    expireShift s = { s with
      seq := releasingSeq s .timeout none
      hand := s.hand ++ modeNotice s .timeout .disengaging (some .release) s.seq.mode s.seq.sub ::
        (if s.seq.mode = .disengaging then [] else modeHandovers .disengaging) ++
          outcomeNotices s s.seq.request .timedOut 0 ++
            if feedback s then [] else [.releaseToSeq] } := by
  unfold expireShift leaveShift startRelease
  rw [closeRequest_eq, transition_eq]
  dsimp only
  split <;>
    simp [handOver, releasingSeq, ptoShiftFor, pumpReadyFor, outcomeNotices, notice, startTimer,
      conf, eq_comm (a := Mode.disengaging)]

/-- The end of a release that was found clear at its entry (R20, R21). -/
theorem seqTakesRelease_eq (s : State) :
    seqTakesRelease s =
      if s.seq.mode = .disengaging ∧ s.seq.sub = some .release ∧ feedback s = false then { s with
        seq := restingSeq s
        hand := s.hand ++
          modeNotice s .condition (derivedMode s) none .disengaging (some .release) ::
            modeHandovers (derivedMode s) ++ outcomeNotices s s.seq.request .completed 0 }
      else s := by
  unfold seqTakesRelease
  split
  · rename_i h
    rw [completeRelease_eq (by rw [h.1]; rfl), h.1, h.2.1]
  · rfl

/-- A DISENGAGE in a shift-in (R13). -/
theorem disengageInShift_eq (p : Port) (s : State) :
    disengageInShift p s =
      releaseOutcome s .request (some ⟨p, .disengage, s.timeBase⟩)
        (outcomeNotices s s.seq.request .superseded (portCode p)) [] := by
  unfold disengageInShift
  rw [enterRelease_eq, postOutcome_eq _ (by cases p <;> decide)]
  unfold releaseOutcome openRequest
  show (if feedback s = true then _ else _) = _
  by_cases hf : feedback s = true
  · rw [if_pos hf, if_pos hf]; simp [releasingSeq, conf, modeNotice, notice]
  · rw [if_neg hf, if_neg hf]
    simp [restingSeq, modeNotice, notice, derivedMode, secured, outcomeNotices]

/-- An entry into SPIN_DOWN (R16, R17). -/
theorem enterSpinDown_eq (why : Reason) (s : State) :
    enterSpinDown why s = spinDownOutcome s why s.seq.request := by
  unfold enterSpinDown spinDownEntry spinDownOutcome
  rw [transition_eq]
  simp only [enterRelease_eq, ptoShiftFor, pumpReadyFor, eq_comm (a := Mode.disengaging), conf,
    startTimer]
  simp
  rfl

/-! ### What the other units hand SEQ -/

/-- The derivation reapplied (R7): in ROAD and PARKED the mode follows it, elsewhere nothing
changes. -/
theorem rederive_eq (s : State) :
    rederive s = if standing s.seq.mode then rederivedOutcome s else s := by
  unfold rederive rederivedOutcome
  cases hs : standing s.seq.mode
  · simp
  · by_cases hd : derivedMode s = s.seq.mode
    · simp [hd]
    · rw [if_pos (by simpa using hd), if_pos rfl, if_neg hd,
        transition_derived _ _ _ rfl (fun h => hd h.symm)]
      rfl

/-- The effect of a PTO block, by the mode (R24). -/
theorem actOnPtoBlock_eq (s : State) :
    actOnPtoBlock s =
      if holdsBlock s.seq.blocks .pto = false then s
      else if s.seq.mode = .shiftingIn then
        releaseOutcome s .block none [] (outcomeNotices s s.seq.request .aborted 0)
      else if pumping s.seq.mode then spinDownOutcome s .block s.seq.request
      else s := by
  unfold actOnPtoBlock
  cases holdsBlock s.seq.blocks .pto
  · simp
  · cases h : s.seq.mode <;> simp [abandonShift_eq, enterSpinDown_eq, pumping]

/-! ### Requests -/

/-- A REQUEST_MODE that passes the checks of R28 is decided by SEQ. -/
theorem serveMode_admitted {p : Port} {own : Nat} {needsRoll : Bool}
    (decide_ : State → State × Result) {s : State} {k : Word}
    (ha : askedOf s p .requestMode = some [k]) (hk : k.toNat = own) (hr : portRank s p ≠ 0)
    (hroll : needsRoll = true → portHolds s p .roll = true) :
    serveMode p own needsRoll decide_ s =
      { (decide_ s).1 with links := answered (decide_ s).1 p ⟨.requestMode, (decide_ s).2, []⟩ } := by
  unfold serveMode namesKind
  rw [ha, if_pos (by simp [argAt, hk]), serve_asked _ ha, fixAnswer_eq]
  unfold admitMode
  rw [if_neg hr, if_neg (by simp [argAt, hk]), if_neg ?_]
  cases needsRoll
  · simp
  · simp [hroll]

/-- The start of a shift-in with no PTO block (R9, R10). -/
theorem startShift_eq (p : Port) (s : State) (hb : holdsBlock s.seq.blocks .pto = false)
    (hm : s.seq.mode = .parked) :
    startShift p s = if feedback s then engagedOutcome p s else shiftingOutcome p s := by
  unfold startShift
  extract_lets s1 u s2
  have h2 : s2 = shiftingOutcome p s := by
    simp only [s2, u, s1, transition_eq]
    simp [openRequest, hm, shiftingOutcome, modeNotice, notice, startTimer, conf, ptoShiftFor,
      pumpReadyFor]
  have hf : feedback s2 = feedback s := by rw [h2]; rfl
  have hb2 : holdsBlock s2.seq.blocks .pto = false := by rw [h2]; exact hb
  rw [hb2, hf, h2]
  split
  · rename_i h; cases h
  · split
    · unfold completeShift actOnPtoBlock
      rw [closeRequest_eq, transition_eq]
      simp [engagedOutcome, shiftingOutcome, hb, ptoShiftFor, pumpReadyFor, modeNotice, notice,
        outcomeNotices, operationCode]
    · rfl

/-- ROLL taken in PUMP and STOP_ROLL in ROLL, before any PTO block acts (R14, R15). -/
theorem transition_pumping (m : Mode) (s : State) (hm : m = .pump ∨ m = .roll)
    (hd : s.seq.mode ≠ m) :
    transition m none .request s = rolledOutcome m s := by
  rw [transition_eq]
  rcases hm with rfl | rfl <;>
    simp [rolledOutcome, ptoShiftFor, pumpReadyFor, Ne.symm hd]

/-- The end of the start-up wait (R5, R154). -/
theorem leaveInit_eq (s : State) (hm : s.seq.mode = .init) :
    leaveInit s = startedOutcome s := by
  unfold leaveInit startedOutcome
  have hd : Mode.init ≠ derivedMode s := by
    intro h
    rcases derivedMode_cases s with h' | h' <;> rw [h'] at h <;> cases h
  split
  · rw [transition_eq]
    simp [addCauseAll, addCause, restingSeq, hm, ptoShiftFor, pumpReadyFor]
  · rw [transition_derived _ _ _ rfl (by rw [hm]; exact hd)]
    rfl

end Sys2Proof.Machine
end

