-- ==== Sys2Proof/Tests/Slice0.lean ====
section
/-! SUPPORT. The model's own tests: ill-formed commands, figures worked out by the spec, and for each
statement with hypotheses a state that meets them. -/

namespace Sys2Proof.Tests

open Sys2Proof Sys2Proof.Machine

-- One theorem after the other: a thread for each would be too many at once.
set_option Elab.async false

/-! ### Helpers -/

/-- A step at once after the one before it. -/
def now : When := ⟨0, [], none⟩

/-- A step `ms` milliseconds after the one before it. -/
def after (ms : Nat) : When := ⟨1000 * ms, [], none⟩

/-- The rows as the table placement leaves them on the factory configuration (R69). -/
def placedRows : List RowSlot :=
  [.active, .off, .off, .off, .active, .clear, .off, .off, .clear, .off, .off, .clear].map
    (fun x => ⟨x, none⟩) ++ List.replicate 12 ⟨.off, none⟩

/-- The part with its load behind it, on the factory configuration. -/
def base : State :=
  { State.reset with
    phase := .running
    cfg := { State.reset.cfg with working := some factory }
    lkt := { State.reset.lkt with rows := placedRows, blocks := 0x05 }
    seq := { State.reset.seq with startWait := some ⟨0, 20⟩ } }

/-- `s` with the mode record at a mode, as SEQ, LKT, GOV and TNK hold it. -/
def inMode (m : Mode) (s : State) : State :=
  { s with
    seq := { s.seq with
      mode := m, startWait := none, ptoShift := ptoShiftFor m none
      pumpReady := pumpReadyFor m s.seq.blocks }
    lkt := { s.lkt with mode := m }
    gov := { s.gov with mode := m }
    tnk := { s.tnk with mode := m } }

/-- `s` with a request that port `p`'s link has handed on. -/
def asked (p : Port) (kind : RequestKind) (args : List Word) (s : State) : State :=
  updateLink p (fun l => { l with state := .preparing, preparation := some (.asked kind args) }) s

/-- `s` with commands waiting. -/
def queued (cs : List Instr) (s : State) : State := { s with pending := cs }

/-- `s` with the debounced input word whose inputs set are given. -/
def inputsAt (parkBrake neutralSense ptoFeedback panelStop : Bool) (s : State) : State :=
  { s with lio := { s.lio with
      inputs := ⟨⟨parkBrake, parkBrake, none⟩, ⟨neutralSense, neutralSense, none⟩,
        ⟨ptoFeedback, ptoFeedback, none⟩, ⟨panelStop, panelStop, none⟩⟩, published := true } }

/-- `s` with a fresh report of speed 0 in neutral from the chassis gateway. -/
def reported (s : State) : State :=
  { s with spd := { s.spd with
      report := some ⟨0, .neutral, true, 0, .chassis⟩, freshness := .fresh
      staleTimer := some ⟨0, 300⟩, transmission := .neutral } }

/-- A governor in PUMP on the factory configuration with the demand and previous error given. -/
def governed (d : Nat) (ePrev : Int) (s : State) : State :=
  { s with
    gov := { s.gov with mode := .pump, d := d, ePrev := ePrev }
    lio := { s.lio with throttle := ⟨d, 0, none⟩ } }

/-- GOV in PUMP at D = 411, as in 4.9. -/
def pumping411 : State :=
  { governed 411 400 (inMode .pump base) with cnv := { base.cnv with toConvert := [0] } }

/-- SEQ with an ENGAGE of the panel controller open, the shift timer due at 2000. -/
def shifting : State :=
  let s := inMode .shiftingIn (inputsAt true true false false (reported base))
  { s with seq := { s.seq with
      request := some ⟨.panel, .engage, 0⟩, shiftTimer := some ⟨0, 2000⟩ } }

/-- PARKED with the brake set, in neutral, at a good speed of 0. -/
def parked : State := inMode .parked (inputsAt true true false false (reported base))

/-- PUMP or ROLL with a report of speed 0 in neutral from the holder of SPEED_SOURCE. -/
def working (m : Mode) : State := inMode m (inputsAt true true true false (reported base))

/-- DISENGAGING in a sub-stage, the feedback set, its timer due at `ms`. -/
def releasing (sub : SubStage) : State :=
  { working .disengaging with seq := { (working .disengaging).seq with
      sub := some sub
      spinLimit := if sub = .spinDown then some ⟨0, 3000⟩ else none
      releaseTimer := if sub = .release then some ⟨0, 2000⟩ else none } }

/-- A fill of the panel controller to 2500 L open in PARKED, tank 0 at 1400 L. -/
def filling : State :=
  let s := inMode .parked base
  { s with tnk := { s.tnk with
      front := ⟨some 1000, true⟩, centre := ⟨some 1000, true⟩, rear := ⟨some 1000, true⟩
      tank0 := ⟨some 1000, some 1000, some 1400, .normal⟩, fillValve := true
      fill := some ⟨.panel, 2500, 0, 1000, 0, ⟨0, 1200000⟩, some ⟨0, 30000⟩, false⟩ } }

/-- Tank 0 at 1400 L in PARKED, no fill open. -/
def halfFull : State := { filling with tnk := { filling.tnk with fill := none, fillValve := false } }

/-- Reported and measured speed have differed since 0. -/
def differing : State :=
  { reported base with spd := { (reported base).spd with
      measured := 31, value := 31, disagreement := .differing, disTimer := some ⟨0, 2000⟩ } }

/-- A row that is TRUE within 10 to 20, with a hysteresis of 5. -/
def insideRow : RowRecord :=
  { factoryRow with enable := true, comparison := .inside, lo := 10, hi := 20, h := 5 }

/-- Row 12 HOLDING until 500, with nothing to block. -/
def holding : State :=
  { base with
    cfg := { base.cfg with
      working := some { factory with rows := replaceAt factory.rows 0 { insideRow with mask := 1, hold := 500 } } }
    lkt := { base.lkt with rows := replaceAt base.lkt.rows 12 ⟨.holding, some ⟨0, 500⟩⟩ } }

/-- A store in progress in PARKED. -/
def storing : State := beginStore (inMode .parked base)

/-- Row `12` of the working configuration with the record given. -/
def withRow (r : RowRecord) (s : State) : State :=
  { s with cfg := { s.cfg with
      working := some { factory with rows := replaceAt factory.rows 0 r } } }

/-- Row `i` with the slot given. -/
def withSlot (i : Nat) (x : RowSlot) (s : State) : State :=
  { s with lkt := { s.lkt with rows := replaceAt s.lkt.rows i x } }

/-- The chassis gateway's MODE rank is 0. -/
def unranked (s : State) : State :=
  { s with cfg := { s.cfg with working := some { factory with ranks := ⟨0, 2, 1⟩ } } }

/-- `s` with a store in progress. -/
def busy (s : State) : State := { s with cfg := { s.cfg with storeBusy := true } }

/-- What a step answers, if it answers a next state. -/
def stateOf : Host.Outcome State Fault Refusal → Option State
  | .next t => some t
  | _ => none

/-- The speed record of an outcome, and so on: a projection of the next state. -/
def seen {α : Type} (f : State → α) (o : Host.Outcome State Fault Refusal) : Option α :=
  (stateOf o).map f

/-! ### Ill-formed commands -/

theorem test_no_row_24 : wellFormed (.holdTimerExpiry now 24) = false := by decide

theorem test_row_23 : wellFormed (.holdTimerExpiry now 23) = true := by decide

theorem test_no_image_word_262 : wellFormed (.storeEnd now [(0, 1), (262, 0)]) = false := by decide

theorem test_checksum_may_be_flawed : wellFormed (.storeEnd now [(261, 0)]) = true := by decide

theorem test_no_word_spells_a_command :
    decodeTableWord 16 0x0701 = none ∧ State.reset.withFetchWord 16 0x0701 = State.reset := by
  decide +kernel

/-! ### Arithmetic ("Arithmetic", 4.9) -/

theorem test_ties_round_away :
    roundedDiv 5 2 = 3 ∧ roundedDiv (-5) 2 = -3 ∧ roundedDiv 1920 256 = 8 ∧
      roundedDiv (-105600) 256 = -413 := by decide

/-! ### Conversions (7.5, 7.6) -/

theorem test_calibrated_values :
    calibrated ⟨410, 1250, 205, 3890⟩ 0 3686 = 3999 ∧
    calibrated ⟨615, 500, 205, 3890⟩ 1 410 = -100 ∧
    calibrated ⟨615, 500, 205, 3890⟩ 1 3686 = 1500 ∧
    calibrated ⟨410, 625, 205, 3890⟩ 2 3686 = 2000 ∧
    calibrated ⟨0, 1024, 0, 4095⟩ 6 410 = 410 := by decide

theorem test_loose_connector :
    let k : Calibration := ⟨615, 500, 205, 3890⟩
    let n := converted k 1 1024 ⟨0, false, false, 0⟩
    let n1 := converted k 1 4 n
    let n5 := converted k 1 1036 (converted k 1 1030 (converted k 1 3995 (converted k 1 1030 n1)))
    n = ⟨200, true, false, 0⟩ ∧ n1 = ⟨200, true, true, 0⟩ ∧ n5 = ⟨200, true, true, 2⟩ ∧
      converted k 1 1040 n5 = ⟨208, true, false, 0⟩ := by decide

/-! ### Pump speed (R126) -/

theorem test_pump_speeds :
    pumpSpeedOf 10000 4 = 1500 ∧ pumpSpeedOf 21427 4 = 700 ∧ pumpSpeedOf 21428 4 = 700 ∧
      pumpSpeedOf 21429 4 = 699 ∧ pumpSpeedOf 100 4 = 4000 := by decide

/-! ### Governor (4.9 to 4.12) -/

theorem test_updates_of_4_10 :
    let s := govTakesDischarge 190 false (govTakesDischarge 150 false (governed 0 0 base))
    s.gov.d = 40 ∧ s.gov.ePrev = 810 ∧
      (govTakesDischarge 370 false (governed 80 700 base)).gov.d = 96 := by decide +kernel

theorem test_ramp_of_4_11 :
    let s := governed 620 0 { base with gov := { base.gov with watch := .low, supply := .external } }
    let t := govTakesDischarge 960 false (govTakesDischarge 990 false s)
    t.gov.d = 580 ∧ t.gov.cIntake = 580 ∧ t.gov.ePrev = 40 := by decide +kernel

theorem test_fallback_of_4_12 :
    let s := { base with lio := { base.lio with np := 1460 } }
    let t := govTakesDischarge 1005 true (governed 540 (-5) s)
    t.gov.governing = .speed ∧ t.gov.sn = 1460 ∧ t.gov.d = 540 ∧ t.gov.ePrev = 0 ∧
      (govTakesDischarge 1005 true { t with lio := { t.lio with np := 1452 } }).gov.d = 541 := by
  decide +kernel

/-! ### Tanks (5.4, 5.9, 5.10) -/

theorem test_volumes_of_5_4 :
    let table := strapOf [0, 100, 250, 500, 800, 1100, 1400, 1600, 1800]
      [40, 140, 360, 760, 1260, 1760, 2260, 2580, 2860]
    volumeOf table 60 = 100 ∧ volumeOf table 930 = 1476 ∧ volumeOf table 1750 = 2790 ∧
      volumeOf table 1900 = 2860 ∧ strapValid table = true := by decide +kernel

theorem test_filter_of_5_9 :
    filterStep 8 1075 1100 = 1087 ∧ filterStep 8 1099 1100 = 1100 ∧ filterStep 1 1002 960 = 1000 ∧
      volumeOf factory.strap0 1087 = 1521 := by decide +kernel

theorem test_gauges_of_5_10 :
    combinedLevel ⟨some 1180, true⟩ ⟨some 1010, true⟩ ⟨some 820, true⟩ = some 1000 ∧
    combinedLevel ⟨some 1180, true⟩ ⟨some 1062, true⟩ ⟨some 820, false⟩ = some 1062 ∧
    combinedLevel ⟨some 1180, false⟩ ⟨some 1062, true⟩ ⟨some 820, false⟩ = none := by decide

/-! ### Rows (R40, R160) -/

theorem test_factory_row_words : rowWords factoryRow = [0, 0, 0, 0, 0x1F00, 0] := by decide +kernel

theorem test_image_has_261_words : (imageWords factory).length = 261 := by decide +kernel

/-! ### States that meet the hypotheses of the statements: the step and the invariants -/

theorem test_witness_StepRunsTheFrontCommand :
    (queued [.tachEdge now, .gateEnd now] base).pending = .tachEdge now :: [.gateEnd now] := rfl

theorem test_witness_StepTakesEveryHandOver :
    (∀ c rest, (queued [.tachEdge now] base).pending = c :: rest → (whenOf c).takes = none) ∧
      ∃ t, step (queued [.tachEdge now] base) = .next t :=
  ⟨by intro c rest h; cases h; rfl, _, rfl⟩

theorem test_witness_StepKeepsTheModeRecordSound :
    SeqSound (queued [.shiftTimerExpiry (after 2000)] shifting).seq ∧
      seen (fun t => t.seq.mode) (step (queued [.shiftTimerExpiry (after 2000)] shifting)) =
        some .parked := by decide +kernel

theorem test_witness_StepKeepsTheUnitsHeldUntilTheLoadEnds :
    HeldSound (queued [.roadPulseEdge now] State.reset) ∧ HeldSound base ∧
      ∃ t, step (queued [.roadPulseEdge now] State.reset) = .next t :=
  ⟨by decide +kernel, by decide +kernel, _, rfl⟩

theorem test_witness_StepKeepsTheDemandUnderItsCeiling :
    HeldSound pumping411 ∧ GovSound pumping411 ∧
      ∃ t, step (queued [.conversionCompletion ⟨100, [], none⟩ 2000] pumping411) = .next t :=
  ⟨by decide +kernel, by decide +kernel, _, rfl⟩

theorem test_witness_StepKeepsValvesAndFillSound :
    HeldSound filling ∧ TnkSound filling ∧
      ∃ t, step (queued [.stallWindowExpiry (after 30000)] filling) = .next t :=
  ⟨by decide +kernel, by decide +kernel, _, rfl⟩

/-- ROAD, the block set with every unit, GOV about to take the mode. -/
def handing : State :=
  { base with
    seq := { base.seq with mode := .road, blocks := 0x05 }
    lkt := { base.lkt with mode := .road }
    gov := { base.gov with blocks := 0x05 }
    tnk := { base.tnk with mode := .road, blocks := 0x05 }
    hand := [.modeToGov .road] }

theorem test_witness_StepKeepsTheLockoutTableSound :
    (LktSound (queued [.gateEnd now] base) ∧ ∃ t, step (queued [.gateEnd now] base) = .next t) ∧
    HeldSound (queued [.gateEnd now] handing) ∧ CopiesAgree (queued [.gateEnd now] handing) ∧
      ∃ t, step (queued [.gateEnd now] handing) = .next t :=
  ⟨⟨by decide +kernel, _, rfl⟩, by decide +kernel, by decide +kernel, _, rfl⟩

/-- Every row of `base` is in a state that section 3.4 admits. -/
theorem rows_of_base : RowsSound base := by
  intro _ i hi
  have state : (rowSlot base i).state = .off ∨ (rowSlot base i).state = .active ∨
      (rowSlot base i).state = .clear := by
    revert i; decide +kernel
  have off : ∀ i < 24, (rowSlot base i).state = .off →
      ¬((rowRecord (conf base) i).enable = true ∧
        inMask (rowRecord (conf base) i).mask base.lkt.mode = true) := by decide +kernel
  have on : ∀ i < 24, (rowSlot base i).state ≠ .off →
      ((rowRecord (conf base) i).enable = true ∧
        inMask (rowRecord (conf base) i).mask base.lkt.mode = true) ∧
      ∀ p ∈ (rowRecord (conf base) i).precursor, inEffect (rowSlot base p).state = true := by
    decide +kernel
  rcases state with h | h | h
  · have := off i hi h
    simp only [RowFits, h]; exact this
  · have := on i hi (by rw [h]; decide)
    simp only [RowFits, h]; exact this
  · have := on i hi (by rw [h]; decide)
    simp only [RowFits, h]; exact this

theorem test_witness_StepKeepsEveryRowStateFitting :
    ConfigSound base ∧ ImageSound base ∧ LktSound base ∧ RowsSound base ∧
      ∃ t, step (queued [.startUpWaitExpiry (after 20)] base) = .next t :=
  ⟨by decide +kernel, by decide +kernel, by decide +kernel, rows_of_base, _, rfl⟩

/-- The chassis gateway holds the table lock. -/
def locked : State := { base with lkt := { base.lkt with lock := some .chassis } }

theorem test_witness_StepKeepsTheLockWithAConfigHolder :
    HeldSound locked ∧ LockSound locked ∧ ∃ t, step (queued [.gateEnd now] locked) = .next t :=
  ⟨by decide +kernel, by decide +kernel, _, rfl⟩

theorem test_witness_StepKeepsTheSpeedRecordSound :
    SpdSound (reported base).spd ∧
      ∃ t, step (queued [.staleTimerExpiry (after 300)] (reported base)) = .next t :=
  ⟨by decide +kernel, _, rfl⟩

theorem test_witness_StepKeepsTheChannelsInRange :
    CnvSound pumping411 ∧
      ∃ t, step (queued [.conversionCompletion ⟨100, [], none⟩ 4095] pumping411) = .next t :=
  ⟨by decide +kernel, _, rfl⟩

/-- A notice as at 20 000 of 2.9. -/
def oneNotice : Notice := ⟨.modeChanged, 1, 0x0302, 20000⟩

/-- The panel port's queue is full and its lost count saturated. -/
def fullQueue : State :=
  { base with ntq := { base.ntq with
      panel := { base.ntq.panel with queue := List.replicate 16 oneNotice, lost := 255 } } }

theorem test_witness_StepKeepsTheQueuesBounded :
    (∀ p : Port, p = .chassis ∨ p = .cab ∨ p = .panel) ∧ NtqSound fullQueue ∧
      ∃ t, step (queued [.startUpWaitExpiry (after 20)] fullQueue) = .next t :=
  ⟨by intro p; cases p <;> decide, by intro p; cases p <;> decide +kernel, _, rfl⟩

theorem test_witness_StepKeepsTheLinksSound :
    LnkSound (asked .cab .readStatus [0] base) ∧
      ∃ t, step (queued [.selectFall now .cab] (asked .cab .readStatus [0] base)) = .next t :=
  ⟨by intro p; cases p <;> decide +kernel, _, rfl⟩

theorem test_witness_StepKeepsTheConfigurationValid :
    ImageSound storing ∧ ConfigSound storing ∧
      (∃ t, step (queued [.storeEnd now []] storing) = .next t) ∧
      ∀ w flaws rest, (queued [.storeEnd now []] storing).pending = .storeEnd w flaws :: rest →
        flaws = [] :=
  ⟨by decide +kernel, by decide +kernel, ⟨_, rfl⟩, by intro w flaws rest h; cases h; rfl⟩

theorem test_witness_ImageReadsBackAsWritten : configValid factory = true := by decide +kernel

/-! ### Resets and the start-up load -/

/-- The RESET line is low. -/
def held : State := resetTo .held .resetLine base

theorem test_witness_ResetsGiveEveryRecordItsResetValue :
    base.phase ≠ .held ∧ held.phase = .held ∧ held.hand = [] := by decide

theorem test_witness_GoodImageBecomesTheWorkingConfiguration :
    State.reset.phase = .loading ∧ imageGood State.reset.cfg.image = true ∧
      HeldSound State.reset ∧ configOfWords (imageWords factory) = some factory ∧
      State.reset.cfg.image = imageOf factory := by decide +kernel

theorem test_witness_BadImageGivesTheFactoryDefaults :
    let s := { State.reset with cfg := { State.reset.cfg with
      image := { factoryImage with checksum := factoryImage.checksum + 1 } } }
    s.phase = .loading ∧ imageGood s.cfg.image = false := by decide +kernel

theorem test_witness_StartUpWaitEndsInStuckOrOnTheRoad :
    let s := inputsAt true true true false base
    let t := reported (inputsAt true true false false base)
    (s.phase = .running ∧ s.hand = [] ∧ s.seq.mode = .init ∧
      timerDue (advance 20000 s).timeBase s.seq.startWait = true ∧
      timerDue (advance 19999 s).timeBase s.seq.startWait = false ∧ feedback s = true) ∧
    (t.phase = .running ∧ t.hand = [] ∧ t.seq.mode = .init ∧
      timerDue (advance 20000 t).timeBase t.seq.startWait = true ∧ feedback t = false ∧
      secured t = true ∧ t.spd.value = 0 ∧ quality t.spd = .good) := by decide +kernel

/-! ### Inputs, pulses, gates -/

/-- PARK_BRAKE has read set since 0, its stability timer due at 20; the settle interval runs. -/
def bouncing : State :=
  { base with lio := { base.lio with
      inputs := { base.lio.inputs with parkBrake := ⟨true, false, some ⟨0, 20⟩⟩ }
      settle := some ⟨0, 20⟩ } }

theorem test_witness_SampleRunsTheStabilityTimers :
    bouncing.phase = .running ∧ bouncing.hand = [] ∧
      (inputGet bouncing.lio.inputs .parkBrake).timer = some ⟨0, 20⟩ ∧
      readsSet .parkBrake ⟨true, true, false, true⟩ ≠
        (inputGet bouncing.lio.inputs .parkBrake).debounced ∧
      (inputGet bouncing.lio.inputs .neutralSense).timer = none ∧
      readsSet .neutralSense ⟨true, true, false, true⟩ ≠
        (inputGet bouncing.lio.inputs .neutralSense).debounced ∧
      readsSet .panelStop ⟨true, true, false, true⟩ =
        (inputGet bouncing.lio.inputs .panelStop).debounced := by decide +kernel

/-- The PTO feedback is clear while the mode record stands at `m`. -/
def feedbackLost (m : Mode) : State := inMode m (inputsAt true true false false (reported base))

/-- SEQ with PTO in the block set. -/
def ptoBlocked (s : State) : State := { s with seq := { s.seq with blocks := 0x02 } }

theorem test_witness_InputChangesAreAcceptedAndPublished :
    let dueAt20 := { bouncing with lio := { bouncing.lio with published := true } }
    (bouncing.phase = .running ∧ bouncing.hand = [] ∧ dueAt20.lio.published = true ∧
      timerDue (advance 20000 bouncing).timeBase (inputGet bouncing.lio.inputs .parkBrake).timer =
        true ∧
      timerDue (advance 20000 bouncing).timeBase bouncing.lio.settle = true) ∧
    (shifting.seq.mode = .shiftingIn ∧ holdsBlock shifting.seq.blocks .pto = false ∧
      (ptoBlocked shifting).seq.mode = .shiftingIn ∧
      holdsBlock (ptoBlocked shifting).seq.blocks .pto = true ∧
      wordFeedback 7 = true ∧ wordFeedback 1 = false ∧ wordSecured 1 = false ∧
      wordFeedback 3 = false ∧ wordSecured 3 = true) ∧
    (feedback (feedbackLost .pump) = false ∧ feedback (feedbackLost .roll) = false ∧
      feedback (feedbackLost .stuck) = false ∧ feedback (working .pump) = true ∧
      (inputsAt true true false false (releasing .spinDown)).seq.sub = some .spinDown ∧
      feedback (inputsAt true true false false (releasing .spinDown)) = false ∧
      (inputsAt true true false false (releasing .release)).seq.sub = some .release ∧
      feedback (inputsAt true true false false (releasing .release)) = false) ∧
    (parked.seq.mode = .parked ∧ derivedMode parked = .parked ∧
      derivedMode (inMode .road parked) ≠ (inMode .road parked).seq.mode ∧
      base.seq.mode = .init ∧ base.lkt.sources.length = 17) := by decide +kernel

/-- A tach edge has been taken at 0. -/
def turning : State :=
  { base with lio := { base.lio with prevEdge := some 0, silence := some ⟨0, 500⟩ } }

theorem test_witness_TachEdgesAndSilenceGiveThePumpSpeed :
    (turning.phase = .running ∧ turning.hand = [] ∧ base.lio.prevEdge = none ∧
      0 < ((advance 10000 turning).usCount - 0).toNat * (conf turning).rates.q ∧
      timerDue (advance 500000 turning).timeBase turning.lio.silence = true ∧
      timerDue (advance 499999 turning).timeBase turning.lio.silence = false ∧
      seen (fun t => t.lio.np) (exec (.tachEdge ⟨10000, [], none⟩) turning) = some 1500) ∧
    ((releasing .spinDown).seq.mode = .disengaging ∧
      (releasing .spinDown).seq.sub = some .spinDown ∧
      700 ≤ (conf (releasing .spinDown)).timing.disengageSpeed ∧
      (conf (releasing .spinDown)).timing.disengageSpeed < 701 ∧
      (releasing .release).seq.sub ≠ some .spinDown) ∧
    (holdsBlock (0x02 : BlockSet) .pto = true ∧ holdsBlock (0x3D : BlockSet) .pto = false ∧
      shifting.seq.mode = .shiftingIn ∧ (working .pump).seq.mode = .pump ∧
      (working .roll).seq.mode = .roll ∧ parked.seq.mode = .parked ∧
      derivedMode (inMode .road parked) ≠ (inMode .road parked).seq.mode) := by
  decide +kernel

/-- R24: a PTO block aborts a shift-in, and spins down a pump that turns. -/
theorem test_pto_blocks :
    let t := deliver (.blocksToSeq 0x02) shifting
    let s := working .roll
    let u := deliver (.blocksToSeq 0x02) { s with lio := { s.lio with np := 701 } }
    (t.seq.mode, t.seq.reason, t.seq.request) = (.parked, .condition, none) ∧
      (u.seq.mode, u.seq.sub, u.seq.reason) = (.disengaging, some .spinDown, .block) ∧
      u.seq.ptoShift = true := by decide +kernel

/-- R18, R20: at the disengage speed the spin-down gives way to the release, which waits while the
feedback is set. -/
theorem test_spin_down_ends_at_700 :
    let t := deliver (.pumpToSeq 700) (releasing .spinDown)
    t.seq.sub = some .release ∧ t.seq.reason = .condition ∧ t.seq.ptoShift = false ∧
      (deliver (.pumpToSeq 701) (releasing .spinDown)).seq.sub = some .spinDown := by decide +kernel

/-- A gate of 250 ms with 50 pulses counted. -/
def counting (s : State) : State :=
  { s with lio := { s.lio with gate := some ⟨0, 250⟩, gateCount := 50 } }

theorem test_witness_GatesCountPulsesAndMeasureTheSpeed :
    let s := counting base
    let t := counting (reported base)
    let d := counting differing
    s.phase = .running ∧ s.hand = [] ∧ s.spd.freshness = .stale ∧
      timerDue (advance 250000 s).timeBase (some ⟨0, 250⟩) = true ∧
      0 < 250 * (conf s).rates.pulsesPerKm ∧
      t.spd.freshness = .fresh ∧ t.spd.report = some ⟨0, .neutral, true, 0, .chassis⟩ ∧
      t.spd.disagreement = .agree ∧ d.spd.disagreement ≠ .agree ∧
      seen (fun x => (x.spd.value, x.spd.disagreement)) (exec (.gateEnd (after 250)) t) =
        some (900, .differing) ∧
      seen (fun x => x.spd.disTimer) (exec (.gateEnd (after 250)) d) = some (some ⟨0, 2000⟩) ∧
      seen (fun x => x.spd.disagreement) (exec (.gateEnd (after 250))
        { d with lio := { d.lio with gateCount := 0 } }) = some .agree := by decide +kernel

/-! ### The converter and the THROTTLE line -/

/-- Channel 1 in conversion, then channel 7, with a record for channel 1. -/
def scanning (c : Channel) : State :=
  { base with cnv :=
    ⟨replaceAt base.cnv.channels 1 c, [1, 7], 0, some ⟨0, 20⟩⟩ }

theorem test_witness_ScansConvertTheListedChannels :
    let s := scanning ⟨200, true, true, 2⟩
    let k : Calibration := ⟨615, 500, 205, 3890⟩
    s.phase = .running ∧ s.hand = [] ∧
      timerDue (advance 20000 s).timeBase s.cnv.scanPeriod = true ∧
      s.cnv.toConvert = 1 :: [7] ∧ s.cnv.channels.length = 8 ∧
      (conf s).calibration[1]? = some k ∧
      100 ≤ ((advance 100 s).usCount - s.cnv.begun).toNat ∧
      (204 : BitVec 12).toNat < k.lo ∧ k.lo ≤ (205 : BitVec 12).toNat ∧
      (3890 : BitVec 12).toNat ≤ k.hi ∧ k.hi < (3891 : BitVec 12).toNat ∧
      (channelOf s 1).faulted = true ∧ (channelOf s 1).run = 2 ∧
      (channelOf (scanning ⟨200, true, true, 1⟩) 1).run < 2 ∧
      (channelOf (scanning ⟨200, true, false, 0⟩) 1).faulted = false := by decide +kernel

/-- 7.6: SENSOR FAULT and RECOVERED of channel 1. -/
theorem test_sensor_notices :
    let noticed (c : Channel) (code : BitVec 12) : Option (List (BitVec 8 × Word)) :=
      seen (fun t => t.ntq.panel.queue.map (fun n => (n.subject, n.value)))
        (exec (.conversionCompletion ⟨100, [], none⟩ code) (scanning c))
    noticed ⟨200, true, false, 0⟩ 4 = some [(0x11, 4)] ∧
      noticed ⟨200, true, true, 2⟩ 1040 = some [(0x21, 208)] ∧
      noticed ⟨200, true, true, 1⟩ 1036 = some [] := by decide +kernel

/-- D = 411 on the THROTTLE line, 2055 µs into its period. -/
def throttled : State :=
  let s := governed 411 400 (inMode .pump base)
  { s with lio := { s.lio with throttle := ⟨411, 411, some 0⟩ }, usCount := 2054 }

theorem test_witness_ThrottleLineFallsAtOnceAndRisesWithTheNextPeriod :
    throttled.phase = .running ∧ throttled.hand = [] ∧
      throttled.lio.throttle.periodStart = some 0 ∧
      5000 ≤ ((advance 2946 throttled).usCount - 0).toNat ∧ GovSound throttled ∧
      throttled.gov.d ≤ 1000 ∧ throttled.gov.d < 412 ∧ 410 < throttled.gov.d ∧
      5 * 410 ≤ (throttled.usCount - 0).toNat ∧ throttleLine throttled = true ∧
      throttleLine (setDemand 410 throttled) = false := by decide +kernel

/-! ### Links -/

theorem test_witness_SelectFallOpensAFrame :
    base.phase = .running ∧ base.hand = [] ∧ base.links.cab.selectLow = false ∧
      base.links.cab.state = .idle ∧
      (asked .cab .readNotice [] base).links.cab.selectLow = false ∧
      (asked .cab .readNotice [] base).links.cab.state = .preparing ∧
      base.links.cab.answer = none ∧
      (updateLink .cab (fun l => { l with answer := some ⟨.fillStart, .taken, [1, 2]⟩ })
        base).links.cab.answer = some ⟨.fillStart, .taken, [1, 2]⟩ := by decide +kernel

/-- Section 11.3: the status word of a busy store in ROAD with the permit, and an answer header. -/
theorem test_status_and_header_bits :
    statusWord { busy (inMode .road base) with lkt := { base.lkt with drivePermit := true } } .cab =
        0x0049 ∧
      answerWords (some ⟨.fillStart, .taken, [1, 2]⟩) = [0x0B22, 1, 2] := by decide +kernel

/-- A frame on the cab link after the words given, its header among them. -/
def frame (words : Nat) (header : Option Header) (args : List Word) : State :=
  { base with links := { base.links with
      cab := { base.links.cab with
        state := .receiving, words := words, header := header, args := args, selectLow := true
        outgoing := some [1, 0] } } }

theorem test_witness_WordsAreTakenIn :
    ((frame 0 none []).hand = [] ∧ (frame 0 none []).links.cab.state = .receiving) ∧
      LinkSound (frame 0 none []).links.cab ∧
      LinkSound (frame 9 (some ⟨16, 9⟩) [16, 0, 1, 2, 3, 4, 5, 6]).links.cab ∧
      LinkSound (frame 10 (some ⟨16, 9⟩) [16, 0, 1, 2, 3, 4, 5, 6, 7]).links.cab ∧
      LinkSound (frame 1 (some ⟨3, 0⟩) []).links.cab :=
  ⟨by decide, by decide +kernel, by decide +kernel, by decide +kernel, by decide +kernel⟩

theorem test_ninth_argument_is_kept :
    seen (fun t => t.links.cab.args)
        (exec (.wordCompletion now .cab 7) (frame 9 (some ⟨16, 9⟩) [16, 0, 1, 2, 3, 4, 5, 6])) =
      some [16, 0, 1, 2, 3, 4, 5, 6, 7] := by decide +kernel

theorem test_witness_SelectRiseHandsOnOrDiscards :
    (frame 2 (some ⟨7, 1⟩) [0]).hand = [] ∧
      (LinkSound (frame 2 (some ⟨7, 1⟩) [0]).links.cab ∧
        requestOfCode 7 = some .requestMode ∧ 1 = argumentCount .requestMode) ∧
      LinkSound (frame 1 (some ⟨7, 1⟩) []).links.cab ∧
      (LinkSound (frame 2 (some ⟨3, 1⟩) [0]).links.cab ∧
        requestOfCode 3 = some .readNotice ∧ 1 ≠ argumentCount .readNotice) ∧
      LinkSound (frame 0 none []).links.cab :=
  ⟨by decide, by decide +kernel, by decide +kernel, by decide +kernel, by decide +kernel⟩

theorem test_witness_AnswerBecomesPending :
    (portGet (answered base .panel ⟨.fillStop, .ok, []⟩) .panel).preparation =
      some (.answered ⟨.fillStop, .ok, []⟩) ∧ base.hand = [] := by decide +kernel

/-- R141 by section 11.3: PUMP with one notice waiting. -/
theorem test_status_word :
    statusWord { inMode .pump base with ntq := { base.ntq with
      cab := { base.ntq.cab with queue := [oneNotice] } } } .cab = 0x0014 := by decide +kernel

/-! ### Reads and notes -/

theorem test_witness_ReadStatusShowsAPage :
    (base.phase = .running ∧ base.hand = [] ∧
      askedOf (asked .cab .readStatus [6] base) .cab .readStatus = some [6] ∧
      6 < (7 : Word).toNat ∧
      askedOf (asked .cab .readStatus [7] base) .cab .readStatus = some [7]) ∧
    (base.seq.request = none ∧ shifting.seq.request = some ⟨.panel, .engage, 0⟩ ∧
      base.tnk.fill = none ∧ filling.tnk.fill ≠ none ∧ base.spd.report = none ∧
      (reported base).spd.report ≠ none ∧ CnvSound base) := by decide +kernel

/-- Section 11.3, page 0: SHIFTING_IN by request, the panel's ENGAGE open since 0, PTO_SHIFT on,
DRIVE_PERMIT off, brake and neutral set. -/
theorem test_status_page_0 :
    seen (fun t => t.links.cab.preparation)
        (exec (.readStatus now .cab) (asked .cab .readStatus [0] shifting)) =
      some (some (.answered
        ⟨.readStatus, .ok, [0x0003, 0x0005, 0, 0x00C5, 0x0001, 0x0003, 0]⟩)) := by decide +kernel

theorem test_witness_ReadRowAndReadConfigChangeNothing :
    base.phase = .running ∧ base.hand = [] ∧
      askedOf (asked .panel .readRow [23] base) .panel .readRow = some [23] ∧
      (rowSlot base 23).state ≠ .holding ∧ (23 : Word).toNat < 24 ∧ 24 ≤ (24 : Word).toNat ∧
      (rowSlot holding 12).state = .holding ∧ (rowSlot holding 12).timer = some ⟨0, 500⟩ ∧
      askedOf (asked .panel .readConfig [10, 7] base) .panel .readConfig = some [10, 7] ∧
      (7 : Word).toNat < partCount (10 : Word).toNat ∧
      partCount (10 : Word).toNat ≤ (8 : Word).toNat ∧
      partCount (15 : Word).toNat ≤ (0 : Word).toNat := by decide +kernel

/-- R68: row 12 HOLDING on the faulted road speed, 400 ms of its hold left. -/
theorem test_row_12_holds_for_400_ms_more :
    seen (fun t => t.links.cab.preparation)
        (exec (.readRow (after 100) .cab) (asked .cab .readRow [12] holding)) =
      some (some (.answered
        ⟨.readRow, .ok, [0x8400, 10, 20, 5, 0x1F01, 500, 0x0C0B, 400]⟩)) := by decide +kernel

theorem test_witness_ReadNoticeAndReadResetCauseRemoveTheFirst :
    fullQueue.phase = .running ∧ fullQueue.hand = [] ∧
      askedOf (asked .panel .readNotice [] fullQueue) .panel .readNotice = some [] ∧
      fullQueue.ntq.panel.queue = oneNotice :: List.replicate 15 oneNotice ∧
      base.ntq.cab.queue = [] ∧
      askedOf (asked .panel .readResetCause [] fullQueue) .panel .readResetCause = some [] := by
  decide +kernel

theorem test_witness_NoticesAndNotesReachTheAddressedQueues :
    base.phase = .running ∧ base.hand = [] ∧ (63 : Word).toNat ≤ 63 ∧ 63 < (64 : Word).toNat ∧
      2 < (3 : Word).toNat ∧
      askedOf (asked .cab .postNote [2, 63, 500] base) .cab .postNote =
        some [wordOfNat (portCode .panel), 63, 500] ∧
      fullQueue.ntq.panel.queue.length = 16 ∧ base.ntq.panel.queue.length < 16 ∧
      ((portGet (conf base).subscriptions .cab &&& 0x05FA).getLsbD (noticeCode oneNotice.kind) = true ∧
        (portGet (conf base).subscriptions .cab &&& 0x05FA).getLsbD (noticeCode .note) = false) := by
  decide +kernel

/-! ### SPD -/

theorem test_witness_SpeedReportsAreJudgedAndTaken :
    let s := asked .chassis .reportSpeed [1501, 4, 1] (reported base)
    let t := { asked .chassis .reportSpeed [0, 0, 0] base with
      spd := { base.spd with report := some ⟨10, .drive, true, 0, .chassis⟩ } }
    s.phase = .running ∧ s.hand = [] ∧
      askedOf s .chassis .reportSpeed = some [1501, 4, 1] ∧
      portHolds s .chassis .speedSource = true ∧ portHolds s .cab .speedSource = false ∧
      4 < (5 : Word).toNat ∧ 1 < (2 : Word).toNat ∧
      transmissionOfCode (4 : Word).toNat = some .reverse ∧ (1 : Word).toNat ≤ 1 ∧
      seen (fun x => (x.spd.freshness, x.spd.value, x.spd.disagreement))
        (exec (.reportSpeed (after 1) .chassis) s) = some (.fresh, 1500, .differing) ∧
      seen (fun x => x.spd.freshness) (exec (.reportSpeed (after 100) .chassis) t) =
        some .fresh ∧
      seen (fun x => x.spd.freshness) (exec (.reportSpeed (after 101) .chassis) t) =
        some .stale := by decide +kernel

/-- R119: a difference of 30 is none; one of 31 that lasts keeps its timer. -/
theorem test_disagreement_at_a_report :
    let s (v : Word) := asked .chassis .reportSpeed [v, 0, 1] differing
    seen (fun x => (x.spd.disagreement, x.spd.disTimer))
        (exec (.reportSpeed (after 1) .chassis) (s 1)) = some (.agree, none) ∧
      seen (fun x => (x.spd.disagreement, x.spd.disTimer))
        (exec (.reportSpeed (after 1) .chassis) (s 0)) = some (.differing, some ⟨0, 2000⟩) := by
  decide +kernel

theorem test_witness_SpeedTimersDegradeTheQuality :
    differing.phase = .running ∧ differing.hand = [] ∧
      timerDue (advance 300000 differing).timeBase differing.spd.staleTimer = true ∧
      SpdSound differing.spd ∧ differing.spd.disagreement = .differing ∧
      timerDue (advance 2000000 differing).timeBase differing.spd.disTimer = true := by
  decide +kernel

/-! ### SEQ -/

theorem test_witness_EngageInParkedStartsTheShift :
    let s := asked .cab .requestMode [0] parked
    let t := asked .cab .requestMode [0]
      (inMode .parked (inputsAt true true true false (reported base)))
    (s.phase = .running ∧ s.hand = [] ∧ askedOf s .cab .requestMode = some [0] ∧
      portRank s .cab ≠ 0 ∧ s.cfg.storeBusy = false ∧ s.seq.mode = .parked ∧
      holdsBlock s.seq.blocks .pto = false ∧ Unblocked s ∧ feedback s = false) ∧
    (t.seq.mode = .parked ∧ Unblocked t ∧ feedback t = true) := by decide +kernel

theorem test_witness_EngageElsewhereIsAnsweredByTheMode :
    let s := asked .cab .requestMode [0] shifting
    let blocked := { parked with seq := { parked.seq with blocks := 0x02 } }
    (s.phase = .running ∧ s.hand = [] ∧ askedOf s .cab .requestMode = some [0] ∧
      portRank s .cab ≠ 0 ∧ s.cfg.storeBusy = false ∧ s.seq.mode = .shiftingIn ∧
      s.seq.request = some ⟨.panel, .engage, 0⟩ ∧ portRank s .panel < portRank s .cab ∧
      portRank s .panel ≤ portRank s .panel ∧ (busy parked).cfg.storeBusy = true ∧
      holdsBlock blocked.seq.blocks .pto = true ∧ blocked.seq.mode = .parked ∧
      now.takes = none) ∧
    (askedOf (asked .chassis .requestMode [0] (unranked parked)) .chassis .requestMode = some [0] ∧
      portRank (unranked parked) .chassis = 0 ∧ portRank (unranked parked) .cab ≠ 0 ∧
      3 < (4 : Word).toNat ∧ (3 : Word).toNat ≤ 3) := by decide +kernel

/-- 2.9 at 20 450: the cab's ENGAGE displaces the panel's, which is told by whom. -/
theorem test_takeover_of_2_9 :
    seen (fun t => (t.ntq.panel.queue, t.seq.request, t.seq.shiftTimer))
        (exec (.engage (after 450) .cab) (asked .cab .requestMode [0] shifting)) =
      some ([⟨.requestOutcome, 0, 0x0101, 450⟩], some ⟨.cab, .engage, 450⟩, some ⟨0, 2000⟩) := by
  decide +kernel

/-- Row 4 CLEAR and row 0 alone ACTIVE. -/
def undegraded (s : State) : State :=
  { s with lkt := { (withSlot 4 ⟨.clear, none⟩ s).lkt with blocks := 0x01 } }

/-- LKT's block set holds ROLL, and SEQ has yet to be handed it. -/
def rollBlocked (s : State) : State :=
  { s with lkt := { s.lkt with blocks := 0x04 }, hand := [.blocksToSeq 0x04] }

theorem test_witness_RollAndStopRollChangeTheMode :
    let s := undegraded (asked .cab .requestMode [1] (working .pump))
    let t := asked .cab .requestMode [2] (working .roll)
    (s.phase = .running ∧ s.hand = [] ∧ portRank s .cab ≠ 0 ∧ portHolds s .cab .roll = true ∧
      askedOf s .cab .requestMode = some [1] ∧ s.seq.mode = .pump ∧
      holdsBlock s.lkt.blocks .roll = false ∧ quality s.spd = .good ∧
      (conf s).fillItems.rollEnabled = true ∧ s.spd.transmission = .neutral ∧
      holdsBlock s.seq.blocks .pto = false ∧ Unblocked s) ∧
    (askedOf t .cab .requestMode = some [2] ∧ t.seq.mode = .roll ∧ t.spd.value = 0 ∧
      secured t = true ∧ holdsBlock t.seq.blocks .pto = false ∧ Unblocked t) ∧
    (holdsBlock (0x02 : BlockSet) .pto = true ∧ holdsBlock (0x02 : BlockSet) .roll = false) ∧
    (¬(quality base.spd = .good) ∧ secured base = false ∧ holdsBlock (0x20 : BlockSet) .roll = false ∧
      holdsBlock (0x04 : BlockSet) .roll = true) ∧
    (portRank (unranked (working .pump)) .chassis = 0 ∧ portRank s .chassis ≠ 0 ∧
      portHolds s .chassis .roll = false ∧ 3 < (4 : Word).toNat) ∧
    (now.dt = 0 ∧ (rollBlocked s).phase = .running ∧ portRank (rollBlocked s) .cab ≠ 0 ∧
      askedOf (rollBlocked s) .cab .requestMode = some [1] ∧ (rollBlocked s).seq.mode = .pump ∧
      holdsBlock (rollBlocked s).lkt.blocks .roll = true ∧ (rollBlocked s).hand ≠ []) := by
  decide +kernel

/-- R35: row 4 ACTIVE before SEQ takes the ROLL gives BLOCKED, though SEQ has not been handed the block
set. -/
theorem test_roll_is_blocked_by_the_row :
    seen (fun t => t.links.cab.preparation)
        (exec (.roll now .cab) (rollBlocked (asked .cab .requestMode [1] (working .pump)))) =
      some (some (.answered ⟨.requestMode, .blocked, []⟩)) := by decide +kernel

/-- The outcomes told to the panel controller. -/
def outcomes (s : State) : List Notice :=
  s.ntq.panel.queue.filter (fun n => n.kind == .requestOutcome)

theorem test_witness_DisengageReleasesThePto :
    let at_ (np : Nat) (s : State) : State :=
      asked .panel .requestMode [3] { s with lio := { s.lio with np := np } }
    let s := at_ 701 (working .pump)
    let t := at_ 0 shifting
    let out := { working .disengaging with seq := { (working .disengaging).seq with
      sub := some .spinDown, spinLimit := some ⟨0, 3000⟩, request := some ⟨.cab, .disengage, 0⟩ } }
    (s.phase = .running ∧ s.hand = [] ∧ askedOf s .panel .requestMode = some [3] ∧
      portRank s .panel ≠ 0 ∧ s.seq.mode = .pump ∧ (conf s).timing.disengageSpeed < s.lio.np ∧
      (at_ 700 (working .pump)).lio.np ≤ (conf s).timing.disengageSpeed ∧
      feedback (at_ 700 (working .pump)) = true ∧ feedback (at_ 700 (feedbackLost .pump)) = false ∧
      parked.seq.mode = .parked ∧ t.seq.mode = .shiftingIn ∧ feedback t = false ∧
      feedback (inputsAt true true true false t) = true ∧ out.seq.mode = .disengaging ∧
      out.seq.request = some ⟨.cab, .disengage, 0⟩ ∧
      (releasing .release).seq.request = none) ∧
    (portRank (unranked parked) .chassis = 0 ∧ 3 < (4 : Word).toNat ∧ (2 : Word).toNat < 3) ∧
    (seen (fun x => (x.seq.mode, outcomes x)) (exec (.disengage now .panel) t) =
        some (.parked, [⟨.requestOutcome, 0, 0x0201, 0⟩, ⟨.requestOutcome, 3, 0x0000, 0⟩]) ∧
      seen (fun x => (x.seq.sub, x.seq.request))
          (exec (.disengage now .panel) (at_ 700 (working .pump))) =
        some (some .release, some ⟨.panel, .disengage, 0⟩)) := by
  decide +kernel

/-- 2000 ms into the panel controller's release the feedback has cleared, and SEQ has not taken the word
yet. -/
def clearing : State :=
  let s := inputsAt true true false false (releasing .release)
  { s with
    timeBase := 2000, hand := [.wordToSeq 3, .arrival .lio .inputs (some 3)]
    seq := { s.seq with request := some ⟨.panel, .disengage, 0⟩ } }

theorem test_witness_SequencerTimersRunOut :
    (shifting.phase = .running ∧ shifting.hand = [] ∧ shifting.seq.mode = .shiftingIn ∧
      timerDue (advance 2000000 shifting).timeBase shifting.seq.shiftTimer = true ∧
      feedback shifting = false ∧ feedback (inputsAt true true true false shifting) = true) ∧
    ((releasing .spinDown).seq.mode = .disengaging ∧ feedback (releasing .spinDown) = true ∧
      timerDue (advance 3000000 (releasing .spinDown)).timeBase
        (releasing .spinDown).seq.spinLimit = true) ∧
    (feedback (releasing .release) = true ∧
      timerDue (advance 2000000 (releasing .release)).timeBase
        (releasing .release).seq.releaseTimer = true) ∧
    (timerDue (advance 0 clearing).timeBase clearing.seq.releaseTimer = true ∧
      .wordToSeq 3 ∈ clearing.hand ∧ wordFeedback 3 = false ∧ feedback clearing = false) ∧
    (let cleared := inputsAt true true false false (releasing .release);
      cleared.seq.mode = .disengaging ∧ cleared.seq.sub = some .release ∧
        feedback cleared = false ∧ parked.seq.mode ≠ .disengaging ∧ now.dt = 0 ∧
        now.takes = none ∧
        askedOf (asked .cab .requestMode [0] cleared) .cab .requestMode = some [0] ∧
        portRank cleared .cab ≠ 0 ∧ cleared.phase = .running) := by
  decide +kernel

/-! ### Orders at one moment (R10, R11, R13, R22, R32, R35; log entry 17) -/

/-- 2000 ms into the shift-in the feedback has been accepted, and SEQ has not taken the word yet. -/
def landing : State :=
  { inputsAt true true true false shifting with
    timeBase := 2000, hand := [.wordToSeq 7, .arrival .lio .inputs (some 7)] }

/-- R10: the word first, the shift-in completes; the expiry first, the feedback arrives in RELEASE. -/
theorem test_feedback_and_expiry :
    (tick landing).seq.mode = .pump ∧
      seen (fun t => (t.seq.mode, t.seq.sub, (outcomes t).map Notice.value))
        (exec (.shiftTimerExpiry now) landing) =
      some (.disengaging, some .release, [0x0002]) := by decide +kernel

/-- R11: the loss first, the shift-in is aborted and the feedback arrives in RELEASE; the feedback
first, PUMP stands. -/
theorem test_feedback_and_loss :
    let at_ (first second : Nat) : State :=
      { inputsAt false true true false shifting with hand := [.wordToSeq first, .wordToSeq second] }
    (tick (at_ 2 6)).seq.sub = some .release ∧ (tick (at_ 7 6)).seq.mode = .pump := by
  decide +kernel

/-- R13: the DISENGAGE first, the feedback arrives in RELEASE, where it waits. -/
theorem test_feedback_and_disengage :
    seen (fun t => (t.seq.sub, t.seq.request))
        (exec (.disengage now .panel) (asked .panel .requestMode [3] landing)) =
      some (some .release, some ⟨.panel, .disengage, 2000⟩) := by decide +kernel

/-- R22: the clearing first, the DISENGAGE is COMPLETED; the expiry first, it is FAILED, and the clearing
then returns the mode from STUCK. -/
theorem test_clearing_and_expiry :
    let ended (o : Option State) : Option (Mode × List Word) :=
      o.map (fun t => (t.seq.mode, (outcomes t).map Notice.value))
    ended (some (tick clearing)) = some (.parked, [0x0000]) ∧
      ended (stateOf (exec (.releaseTimerExpiry now) clearing)) = some (.parked, [0x0004]) ∧
      seen (fun t => t.seq.mode) (exec (.releaseTimerExpiry ⟨0, [], some 0⟩) clearing) =
        some .stuck := by decide +kernel

/-- R32: after the expiry an ENGAGE finds DISENGAGING, with the feedback clear as with it set; the
release that was found clear then completes. -/
theorem test_engage_after_the_expiry :
    let ask : Option (Option Preparation × Mode) :=
      (stateOf (exec (.shiftTimerExpiry { after 2000 with takes := some 0 }) shifting)).bind
        (fun t => seen (fun t => (t.links.cab.preparation, t.seq.mode))
          (exec (.engage now .cab) (asked .cab .requestMode [0] t)))
    ask = some (some (.answered ⟨.requestMode, .busy, []⟩), .parked) ∧
      seen (fun t => (t.seq.mode, outcomes t)) (exec (.shiftTimerExpiry (after 2000)) shifting) =
        some (.parked, [⟨.requestOutcome, 0, 0x0002, 2000⟩]) ∧
      seen (fun t => t.links.cab.preparation)
          (exec (.engage now .cab) (asked .cab .requestMode [0] (releasing .release))) =
        some (some (.answered ⟨.requestMode, .busy, []⟩)) := by decide +kernel

/-- R35: a ROLL after SPD has changed the quality and before row 4 has acted, and one after it. -/
theorem test_roll_and_the_quality :
    let s := undegraded (asked .cab .requestMode [1] (working .pump))
    let before := { s with
      spd := { s.spd with freshness := .stale, staleTimer := none, transmission := .unknown }
      hand := [.arrival .spd .speedQuality (some 1)] }
    let result (s : State) : Option (Option Preparation) :=
      seen (fun t => t.links.cab.preparation) (exec (.roll now .cab) s)
    result before = some (some (.answered ⟨.requestMode, .condition, []⟩)) ∧
      result (tick before) = some (some (.answered ⟨.requestMode, .blocked, []⟩)) ∧
      result s = some (some (.answered ⟨.requestMode, .ok, []⟩)) := by decide +kernel

/-! ### GOV -/

theorem test_witness_SetGovernorSetsTheRecord :
    let s := asked .panel .setGovernor [2, 199, 3001] base
    let marked := { base with gov := { base.gov with faultMark := true } }
    s.phase = .running ∧ s.hand = [] ∧
      askedOf s .panel .setGovernor = some [2, 199, 3001] ∧ portHolds s .panel .govern = true ∧
      portHolds s .chassis .govern = false ∧ (2 : Word).toNat ≤ 2 ∧ 2 < (3 : Word).toNat ∧
      ¬((2 : Word) = 1 ∧ s.gov.faultMark = true) ∧ portHolds marked .panel .govern = true ∧
      marked.gov.faultMark = true := by decide +kernel

/-- GOV in PUMP under a THROTTLE block. -/
def throttleHeld : State :=
  let s := governed 0 0 (inMode .pump base)
  { s with gov := { s.gov with blocks := 0x08, c := 0 } }

theorem test_witness_UpdatesAreSlewLimitedAndRamped :
    let s := { pumping411 with gov := { pumping411.gov with watch := .low } }
    pumping s.gov.mode = true ∧ s.gov.watch = .low ∧ pumping411.gov.watch ≠ .low ∧
      s.gov.governing = .pressure ∧
      holdsBlock s.gov.blocks .throttle = false ∧
      holdsBlock (0x08 : BlockSet) .throttle = true ∧
      holdsBlock throttleHeld.gov.blocks .throttle = true ∧ GovSound throttleHeld := by decide +kernel

/-- R78: the THROTTLE block taken in PUMP at D = 411, and left again. -/
theorem test_throttle_block :
    let t := deliver (.blocksToGov 0x08) pumping411
    let u := deliver (.blocksToGov 0) throttleHeld
    t.gov.d = 0 ∧ t.gov.c = 0 ∧ t.gov.ePrev = 400 ∧
      t.hand = [.arrival .gov .throttleDemand (some 0)] ∧
      u.gov.d = 0 ∧ u.gov.c = 1000 ∧ u.hand = [] := by decide +kernel

theorem test_witness_FallbackIsWithoutAStep :
    let s := { pumping411 with lio := { pumping411.lio with np := 3000 } }
    s.gov.governing = .pressure ∧ pumping s.gov.mode = true ∧ 600 ≤ s.lio.np ∧ s.lio.np ≤ 3000 ∧
      s.gov.watch ≠ .low ∧ s.gov.d ≤ (conf s).gains.ceiling ∧ s.gov.d ≤ s.gov.cIntake ∧
      holdsBlock s.gov.blocks .throttle = false ∧ pumping base.gov.mode = false ∧
      base.gov.governing = .pressure := by
  decide +kernel

/-! ### TNK -/

/-- GOV in PUMP with the supply external and the watch given. -/
def watching (x : IntakeWatch) : State :=
  { pumping411 with gov := { pumping411.gov with watch := x, supply := .external } }

theorem test_witness_SelectSupplyAndTheIntakeWatch :
    let s := asked .panel .selectSupply [1] filling
    (s.phase = .running ∧ s.hand = [] ∧ askedOf s .panel .selectSupply = some [1] ∧
      portHolds s .panel .tank = true ∧ portHolds s .chassis .tank = false ∧
      supplyOfCode (1 : Word).toNat = some .external ∧
      supplyOfCode (0 : Word).toNat = some s.tnk.supply ∧ TnkSound s ∧ 1 < (2 : Word).toNat ∧
      Supply.external ≠ s.tnk.supply ∧ (s.tnk.fill.map Fill.suspended) = some false ∧
      halfFull.tnk.fill = none) ∧
    ((watching .watching).gov.watch = .watching ∧ (watching .low).gov.watch = .low ∧
      (watching .suspended).gov.watch = .suspended ∧ base.gov.watch = .off ∧
      34 < (conf base).govDefaults.floor ∧ (conf base).govDefaults.floor ≤ 35 ∧
      (54 : Int) < (conf base).govDefaults.floor + (conf base).govDefaults.hysteresis ∧
      (conf base).govDefaults.floor + (conf base).govDefaults.hysteresis ≤ (55 : Int)) ∧
    ((watching .low).gov.supply = .external ∧ pumping411.gov.supply = .tank ∧
      shifting.gov.supply = .tank ∧ pumping (watching .low).gov.mode = true ∧
      pumping Mode.disengaging = false ∧ shifting.gov.mode = .shiftingIn ∧
      ¬((watching .low).gov.mode = .shiftingIn ∧ Mode.roll = .pump) ∧
      ¬(pumping (watching .low).gov.mode = true ∧ pumping .roll = false)) := by
  decide +kernel

/-- R73: the governor record at the entry into PUMP and at the leaving of it. -/
theorem test_modes_of_the_governor :
    let s := { shifting with gov := { shifting.gov with
      supply := .external, ePrev := 7, cIntake := 500, c := 500 } }
    let t := deliver (.modeToGov .pump) s
    let u := deliver (.modeToGov .disengaging) (watching .low)
    (t.gov.mode, t.gov.d, t.gov.ePrev, t.gov.c, t.gov.watch) = (.pump, 0, 0, 1000, .watching) ∧
      t.hand = [] ∧
      (u.gov.mode, u.gov.d, u.gov.ePrev, u.gov.c, u.gov.watch) = (.disengaging, 0, 0, 1000, .off) ∧
      u.hand = [.arrival .gov .throttleDemand (some 0),
        notice (watching .low) .gov .governor 2 0 .subscribers] := by decide +kernel

/-- R81, R82: the watch on the way down, in the band, and up; off when the supply is the tank. -/
theorem test_watch_moves :
    let at_ (v : Int) (x : IntakeWatch) : IntakeWatch :=
      (deliver (.intakeToGov v false) (watching x)).gov.watch
    at_ 34 .watching = .low ∧ at_ 35 .watching = .watching ∧ at_ 54 .low = .low ∧
      at_ 55 .low = .watching ∧
      (deliver (.intakeToGov 54 true) (watching .low)).gov.watch = .suspended ∧
      (deliver (.supplyToGov .tank) (watching .low)).gov.watch = .off ∧
      (deliver (.supplyToGov .external) pumping411).gov.watch = .watching := by decide +kernel

theorem test_witness_FillStartOpensAFill :
    let s := asked .panel .fillStart [2701] halfFull
    let blocked := { halfFull with tnk := { halfFull.tnk with blocks := 0x20 } }
    let road := { halfFull with tnk := { halfFull.tnk with mode := .road } }
    (s.phase = .running ∧ s.hand = [] ∧ askedOf s .panel .fillStart = some [2701] ∧
      s.tnk.tank0.v = some 1400 ∧ s.tnk.tank0.lf = some 1000 ∧ portHolds s .panel .tank = true ∧
      s.tnk.fill = none ∧ holdsBlock s.tnk.blocks .fill = false ∧ s.tnk.mode = .parked ∧
      s.tnk.tank0.state ≠ .unknown ∧ s.tnk.tank0.state ≠ .full ∧
      (1400 : Int) < min (2701 : Word).toNat (conf s).tank0.full ∧ Unblocked s) ∧
    (filling.tnk.fill ≠ none ∧ portHolds s .chassis .tank = false ∧
      holdsBlock blocked.tnk.blocks .fill = true ∧ blocked.tnk.fill = none ∧
      road.tnk.mode ≠ .parked ∧ road.tnk.mode ≠ .pump ∧
      holdsBlock road.tnk.blocks .fill = false ∧
      (min (1400 : Word).toNat (conf s).tank0.full : Int) ≤ 1400) ∧
    (portHolds base .panel .tank = true ∧ base.tnk.fill = none ∧ base.tnk.tank0.v = none ∧
      base.tnk.tank0.state = .unknown) := by decide +kernel

/-- R103: before tank 0's first level a FILL_START is answered CONDITION. -/
theorem test_fill_needs_a_level :
    seen (fun t => (t.links.panel.preparation, t.tnk.fill))
        (exec (.fillStart now .panel) (asked .panel .fillStart [2000] (inMode .parked base))) =
      some (some (.answered ⟨.fillStart, .condition, []⟩), none) := by decide +kernel

/-- A fill open at a filtered level of `lf`, the rise last seen at 1000 mm. -/
def fillingAt (lf : Int) (state : TankState) : State :=
  { filling with tnk := { filling.tnk with tank0 := ⟨some lf, some lf, some 1400, state⟩ } }

/-- The fill of `filling` in the mode given, its stall check suspended or not. -/
def fillingFrom (m : Mode) (suspended : Bool) : State :=
  { filling with tnk := { filling.tnk with
      mode := m
      fill := some ⟨.panel, 2500, 0, 1000, 0, ⟨0, 1200000⟩,
        if suspended then none else some ⟨0, 30000⟩, suspended⟩ } }

theorem test_witness_FillsEndByStopAndTimers :
    let s := asked .panel .fillStop [] filling
    (s.phase = .running ∧ s.hand = [] ∧ askedOf s .panel .fillStop = some [] ∧
      portHolds s .panel .tank = true ∧
      (∃ f, s.tnk.fill = some f ∧
        timerDue (advance 1200000000 s).timeBase (some f.timeout) = true ∧
        timerDue (advance 30000000 s).timeBase f.stall = true)) ∧
    (portHolds s .chassis .tank = false ∧ halfFull.tnk.fill = none) ∧
    s.tnk.tank0.v = some 1400 ∧
    ((fillingFrom .pump true).tnk.fill.map Fill.suspended = some true ∧
      ((fillingFrom .pump true).tnk.supply == .tank && Mode.parked == .pump) = false) ∧
    (stallSuspended filling.tnk.supply .pump = true ∧
      stallSuspended filling.tnk.supply .parked = false ∧
      (∃ f, filling.tnk.fill = some f ∧ f.suspended = false) ∧
      holdsBlock (0x20 : BlockSet) .fill = true ∧ holdsBlock (0x1F : BlockSet) .fill = false) := by
  refine ⟨⟨by decide +kernel, by decide +kernel, by decide +kernel, by decide +kernel, ⟨_, rfl,
    by decide +kernel, by decide +kernel⟩⟩, by decide +kernel, by decide +kernel, by decide +kernel,
    by decide +kernel, by decide +kernel, ⟨_, rfl, rfl⟩, by decide +kernel, by decide +kernel⟩

/-- R104, R108, R109: a fill's start as LKT is told of it; a mode that resumes the stall check, one that
ends the fill, and a valve without a fill. -/
theorem test_fill_and_modes :
    let t := deliver (.modeToTnk .parked) (fillingFrom .pump true)
    let u := deliver (.modeToTnk .roll) (fillingFrom .pump true)
    seen State.hand (exec (.fillStart ⟨0, [], some 0⟩ .panel)
        (asked .panel .fillStart [2000] halfFull)) = some [.arrival .tnk .fillActive (some 1)] ∧
      t.tnk.fill = some ⟨.panel, 2500, 0, 1000, 0, ⟨0, 1200000⟩, some ⟨0, 30000⟩, false⟩ ∧
      t.tnk.tankValve = false ∧ u.tnk.fill = none ∧ u.tnk.tankValve = true ∧
      (deliver (.modeToTnk .pump) halfFull).tnk.tankValve = true ∧
      (deliver (.blocksToTnk 0x10) (deliver (.modeToTnk .pump) halfFull)).tnk.tankValve = false := by
  decide +kernel

/-- R106, R107: two bad gauges, FULL, the target, a rise of 20 mm and one of 19 mm. -/
theorem test_fill_checks :
    let ends (lf : Int) (state : TankState) : Bool :=
      (deliver (.levelToTnk 3 lf false) (fillingAt lf state)).tnk.fill.isNone
    let at_ (front : Int) (s : State) : State := deliver (.levelToTnk 2 front false) s
    (deliver (.levelToTnk 2 1000 true)
        { filling with tnk := { filling.tnk with rear := ⟨some 1000, false⟩ } }).tnk.fill = none ∧
      (at_ 2000 { fillingAt 2000 .normal with tnk := { (fillingAt 2000 .normal).tnk with
        rear := ⟨some 2000, true⟩ } }).tnk.fill = none ∧
      ends 1000 .normal = false ∧
      (at_ 1000 (fillingAt 1020 .normal)).tnk.fill.map Fill.riseLevel = some 1000 ∧
      (at_ 1040 { fillingAt 1020 .normal with tnk := { (fillingAt 1020 .normal).tnk with
        rear := ⟨some 1000, true⟩ } }).tnk.fill.map Fill.riseLevel = some 1020 := by
  decide +kernel

theorem test_witness_LevelsConvergeAndVolumesStayWithinTheTable :
    (strapValid factory.strap0 = true ∧ factory.strap0.head? = some ⟨0, 0⟩ ∧
      factory.strap0.getLast? = some ⟨2000, 2800⟩ ∧ volumeOf factory.strap0 2001 = 2800) ∧
    (halfFull.tnk.fill = none ∧ halfFull.tnk.front.good = true ∧ halfFull.tnk.rear.good = true ∧
      halfFull.tnk.centre.good = true ∧ halfFull.tnk.episode = false ∧
      base.tnk.tank0.lf = none ∧ halfFull.tnk.tank0.lf = some 1000 ∧
      (conf halfFull).tolerances.gauge = 40) ∧
    filling.tnk.fill.isSome = true ∧
    (deliver (.levelToTnk 3 1041 false) filling).tnk.fill.isSome = true ∧
    (deliver (.levelToTnk 2 1000 true)
      { filling with tnk := { filling.tnk with rear := ⟨some 1000, false⟩ } }).tnk.fill = none := by
  decide +kernel

/-- R90 to R94, R98, R100: the gauges at 1000, the centre one arriving 41 mm off and then 40; tank 1's
first level. -/
theorem test_level_arrivals :
    let t := deliver (.levelToTnk 3 1041 false) halfFull
    let u := deliver (.levelToTnk 3 1040 false) t
    let x := deliver (.levelToTnk 5 1000 false) halfFull
    t.tnk.episode = true ∧ t.tnk.tank0 = ⟨some 1000, some 1000, some 1400, .normal⟩ ∧
      t.hand = [notice halfFull .tnk .sensor 3 41 .subscribers,
        .arrival .tnk .tank0Volume (some 1400)] ∧
      u.tnk.episode = false ∧ x.tnk.tank1 = ⟨some 1000, some 1000, some 200, .normal⟩ ∧
      x.hand = [.arrival .tnk .tank1Volume (some 200), .arrival .tnk .tank1State (some 3),
        notice halfFull .tnk .tankState 1 0x0300 .subscribers] := by decide +kernel

/-- R92, R100, R106: with a fill open the SENSOR of the gauges and the volume go before the ending. -/
theorem test_recomputation_ends_a_fill :
    let t := deliver (.levelToTnk 3 1041 false) { filling with tnk := { filling.tnk with
      fill := filling.tnk.fill.map (fun f => { f with target := 1400 }) } }
    t.tnk.fill = none ∧ t.hand =
      [notice filling .tnk .sensor 3 41 .subscribers, .arrival .tnk .tank0Volume (some 1400),
        notice filling .tnk .fillEnded 0 1400 (.subscribersAnd .panel),
        .arrival .tnk .fillActive (some 0)] := by decide +kernel

theorem test_witness_TankStatesKeepTheirBands :
    thresholdsValid factory.tank0 = true ∧
      nextTankState factory.tank0 .low 550 = .low ∧
      nextTankState factory.tank0 .low 551 = .normal ∧
      nextTankState factory.tank0 .full 2650 = .full ∧
      nextTankState factory.tank0 .full 2649 = .normal ∧
      nextTankState factory.tank0 .normal 500 = .low := by decide +kernel

/-! ### LKT -/

theorem test_witness_ComparisonsTestValuesPlainAndWidened :
    let outside : RowRecord := { insideRow with comparison := .outside }
    let collapsed : RowRecord := { outside with h := 6 }
    let same : RowRecord := { insideRow with comparison := .maskedEqual, lo := 5, hi := 6 }
    let differ : RowRecord := { same with comparison := .maskedDiffer }
    (insideRow.lo ≤ insideRow.hi ∧ compare insideRow false 10 = true ∧
      compare insideRow false 9 = false ∧ compare insideRow true 5 = true ∧
      compare insideRow true 4 = false) ∧
    (outside.comparison = .outside ∧ outside.lo + (outside.h : Int) ≤ outside.hi - (outside.h : Int) ∧
      compare outside false 20 = false ∧ compare outside true 14 = true ∧
      compare outside true 15 = false) ∧
    (collapsed.hi - (collapsed.h : Int) < collapsed.lo + (collapsed.h : Int) ∧
      compare collapsed true 14 = true ∧ compare collapsed true 15 = false) ∧
    (same.comparison = .maskedEqual ∧ compare same true 12 = true ∧ compare same false 14 = false ∧
      differ.comparison = .maskedDiffer ∧ compare differ false 14 = true ∧
      factoryRow.comparison = .always) := by decide +kernel

/-- Row 12 watches AUX0 behind row 5, which is in effect while a fill is open. -/
def chained (s : State) : State :=
  withRow { insideRow with source := .aux0, mask := 0xFF, precursor := some 5 } s

theorem test_witness_RowsFollowArrivalsModesAndTimers :
    let active := withSlot 5 ⟨.active, none⟩ (withSlot 12 ⟨.clear, none⟩ (chained base))
    let waits := withSlot 12 ⟨.wait, none⟩ (chained base)
    let acts (s : State) (p : Nat) : Bool := inEffect (rowSlot s p).state
    (base.lkt.rows.length = 24 ∧ base.lkt.sources.length = 17 ∧
      watches 5 (rowRecord (conf base) 5) .fillActive = true ∧
      (rowRecord (conf base) 5).precursor = none) ∧
    ((rowRecord (conf active) 12).precursor = some 5 ∧
      watches 12 (rowRecord (conf active) 12) .fillActive = false ∧
      acts active 5 = true ∧ acts (deliver (.arrival .tnk .fillActive (some 0)) active) 5 = false ∧
      acts waits 5 = false ∧ acts (deliver (.arrival .tnk .fillActive (some 1)) waits) 5 = true ∧
      (rowSlot waits 12).state = .wait ∧ inMask (rowRecord (conf waits) 12).mask waits.lkt.mode = true) ∧
    ((rowRecord (conf base) 0).precursor = none ∧ inMask 0xD9 .road = false ∧
      inMask 0xD9 .pump = true ∧ (rowSlot base 0).state = .active ∧ (rowSlot base 1).state = .off) ∧
    (condition base 6 (rowRecord (conf base) 6) false = true ∧
      (rowRecord (conf base) 0).comparison = .always ∧ (0 : Nat) ≠ 6) ∧
    (sourceFaulted base .roadSpeed = true ∧ (rowRecord (conf base) 2).onFaultTrue = true ∧
      sourceFaulted base .fillActive = false) ∧
    (holding.phase = .running ∧ holding.hand = [] ∧ holding.lkt.rows.length = 24 ∧
      (rowSlot holding 12).state = .holding ∧ LktSound holding ∧
      timerDue (advance 500000 holding).timeBase (rowSlot holding 12).timer = true ∧
      (rowRecord (conf holding) 12).blocks = 0 ∧
      (∀ j < 24, (rowRecord (conf holding) j).precursor ≠ some 12) ∧
      (rowSlot holding 13).state ≠ .holding) := by decide +kernel

/-- R49, R51, R54: a fill's start and end move row 5, and row 12 behind it. -/
theorem test_rows_move :
    let waits := withSlot 12 ⟨.wait, none⟩ (chained base)
    let t := deliver (.arrival .tnk .fillActive (some 1)) waits
    let u := deliver (.arrival .tnk .fillActive (some 0)) t
    (rowSlot t 5).state = .active ∧ (rowSlot t 12).state = .clear ∧
      (rowSlot u 5).state = .clear ∧ (rowSlot u 12).state = .wait ∧
      (rowSlot (deliver (.modeToLkt .road) base) 0).state = .off ∧
      (rowSlot (deliver (.modeToLkt .pump) base) 1).state = .clear := by decide +kernel

/-- R50, R55, R56: row 12, which blocks PTO, becomes ACTIVE, and the block set goes to its three users. -/
theorem test_expiry_hands_the_block_set_on :
    let s := { withRow { insideRow with mask := 1, hold := 500, blocks := 0x02 } holding with
      timeBase := 500 }
    seen State.hand (exec (.holdTimerExpiry ⟨0, [], some 0⟩ 12) s) =
      some [notice s .lkt .rowState 12 0x0403 .subscribers,
        .blocksToSeq 0x07, .blocksToGov 0x07, .blocksToTnk 0x07] := by decide +kernel

/-- Row 11 latched while PARKED: it is outside no mask; row 12, of mask 0, is latched too. -/
def latchedRow : State :=
  { parked with lkt := { parked.lkt with rows := replaceAt parked.lkt.rows 12 ⟨.latched, none⟩ } }

theorem test_witness_AckRowPlacesALatchedRow :
    let s := asked .cab .ackRow [12] latchedRow
    let inside := withRow { insideRow with mask := 0xFF } latchedRow
    let behind := chained latchedRow
    let unheld := { latchedRow with cfg := { latchedRow.cfg with
      working := some { factory with rights := ⟨0x71, 0x02, 0x2C⟩ } } }
    (s.phase = .running ∧ s.hand = [] ∧ askedOf s .cab .ackRow = some [12] ∧
      portHolds s .cab .ack = true ∧ portHolds unheld .cab .ack = false ∧
      s.lkt.rows.length = 24 ∧ (rowSlot s 12).state = .latched ∧
      inMask (rowRecord (conf s) 12).mask s.lkt.mode = false ∧ standing s.seq.mode = true ∧
      (rowSlot s 4).state = .active ∧ (rowSlot s 13).state = .off ∧ 24 ≤ (24 : Word).toNat) ∧
    ((rowSlot inside 12).state = .latched ∧ (rowRecord (conf inside) 12).enable = true ∧
      inMask (rowRecord (conf inside) 12).mask inside.lkt.mode = true ∧
      (rowRecord (conf inside) 12).precursor = none) ∧
    (rowRecord (conf behind) 12).precursor = some 5 ∧
      inEffect (rowSlot behind 5).state = false := by
  decide +kernel

/-- R62, R47: row 12 is placed CLEAR with its condition false and WAIT behind an idle row 5. -/
theorem test_acknowledged_row_is_placed :
    let ack (s : State) : Option RowState :=
      seen (fun t => (rowSlot t 12).state) (exec (.ackRow now .cab) (asked .cab .ackRow [12] s))
    ack (withRow { insideRow with mask := 0xFF } latchedRow) = some .clear ∧
      ack (chained latchedRow) = some .wait ∧
      ack (withRow { insideRow with mask := 0xFF, comparison := .always } latchedRow) =
        some .active := by decide +kernel

theorem test_witness_WriteRowReplacesOrRefuses :
    let ws := rowWords insideRow
    let s := asked .chassis .writeRow (12 :: ws) parked
    s.phase = .running ∧ s.hand = [] ∧ s.cfg.working = some factory ∧ factory.rows.length = 12 ∧
      askedOf s .chassis .writeRow = some (12 :: ws) ∧
      portHolds s .chassis .lockoutEdit = true ∧ rowOfWords ws = some insideRow ∧
      rowValid 12 insideRow = true ∧ s.cfg.storeBusy = false ∧ s.lkt.lock = none ∧
      s.seq.mode = .parked ∧ s.lkt.rows.length = 24 ∧
      portHolds s .cab .lockoutEdit = false ∧
      rowValid 12 { insideRow with precursor := some 12 } = false ∧
      (busy s).cfg.storeBusy = true ∧ (locked.lkt.lock = some .chassis) ∧
      (working .pump).seq.mode = .pump := by decide +kernel

/-- R63, R65: a HOLDING row is placed anew and its timer discarded; BUSY and CONDITION. -/
theorem test_written_row_is_placed :
    let s := withSlot 12 ⟨.holding, some ⟨0, 500⟩⟩ parked
    let ask (r : RowRecord) (s : State) : State := asked .chassis .writeRow (12 :: rowWords r) s
    let result (s : State) : Option (Option Preparation) :=
      seen (fun t => t.links.chassis.preparation)
        (exec (.writeRow now .chassis) (ask insideRow s))
    seen (fun t => rowSlot t 12)
        (exec (.writeRow now .chassis) (ask { insideRow with mask := 0xFF } s)) =
      some ⟨.clear, none⟩ ∧
    result (busy s) = some (some (.answered ⟨.writeRow, .busy, []⟩)) ∧
    result (working .pump) = some (some (.answered ⟨.writeRow, .condition, []⟩)) := by
  decide +kernel

theorem test_witness_LockTableSetsAndFrees :
    let s := asked .chassis .lockTable [1] base
    let t := asked .chassis .lockTable [0] { base with lkt := { base.lkt with lock := some .cab } }
    s.phase = .running ∧ s.hand = [] ∧ askedOf s .chassis .lockTable = some [1] ∧
      portHolds s .chassis .config = true ∧ portHolds s .cab .config = false ∧
      s.lkt.lock = none ∧ askedOf t .chassis .lockTable = some [0] ∧ t.lkt.lock = some .cab ∧
      1 < (2 : Word).toNat ∧
      askedOf (asked .chassis .lockTable [2] base) .chassis .lockTable = some [2] := by
  decide +kernel

/-! ### CFG -/

/-- A WRITE_CONFIG of the chassis gateway. -/
def writes (ws : List Word) (s : State) : State := asked .chassis .writeConfig ws s

/-- The configuration and the answer that such a write gives. -/
def wrote {α : Type} (f : WorkingConfig → α) (ws : List Word) (s : State) :
    Option (Option α × Option Preparation) :=
  seen (fun t => (t.cfg.working.map f, t.links.chassis.preparation))
    (exec (.writeConfig now .chassis) (writes ws s))

/-- The answer of a WRITE_CONFIG. -/
def answer (r : Result) : Option Preparation := some (.answered ⟨.writeConfig, r, []⟩)

theorem test_witness_TuningWritesAreClampedInOrder :
    let s := writes [4, 0, 500, 499, 65535, 1001, 0, 0, 0] base
    (s.phase = .running ∧ s.hand = [] ∧ s.cfg.working = some factory ∧
      configValid factory = true ∧ portHolds s .chassis .config = true ∧
      portHolds s .cab .config = false ∧ s.cfg.storeBusy = false ∧ (busy s).cfg.storeBusy = true ∧
      askedOf s .chassis .writeConfig = some [4, 0, 500, 499, 65535, 1001, 0, 0, 0] ∧
      partCount 4 ≤ (2 : Word).toNat ∧ partCount 0 ≤ (0 : Word).toNat ∧
      14 < (15 : Word).toNat ∧ partCount 10 ≤ (8 : Word).toNat ∧ partCount 13 ≤ (1 : Word).toNat) ∧
    (wrote WorkingConfig.tank0 [4, 0, 500, 499, 65535, 1001, 0, 0, 0] base =
        some (some ⟨499, 500, 65535, 1000⟩, answer .clamped) ∧
      wrote WorkingConfig.tank1 [4, 1, 20, 80, 380, 10, 0, 0, 0] base =
        some (some ⟨20, 80, 380, 10⟩, answer .ok) ∧
      wrote WorkingConfig.gains [1, 0, 256, 12, 32, 8, 0, 99, 0] base =
        some (some ⟨255, 12, 32, 8, 1, 100⟩, answer .clamped)) ∧
    (wrote WorkingConfig.govDefaults [2, 0, 199, 3001, 0xFFC3, 4, 0, 0, 0] base =
        some (some ⟨200, 3000, -60, 5⟩, answer .clamped) ∧
      wrote WorkingConfig.fixedRows [3, 0, 9, 3501, 60001, 0, 0, 0, 0] base =
        some (some ⟨10, 3500, 60000, 0, 0, 0, 0⟩, answer .clamped) ∧
      wrote WorkingConfig.tolerances [5, 0, 101, 9, 0, 0, 0, 0, 0] base =
        some (some ⟨100, 10⟩, answer .clamped)) := by
  decide +kernel

/-- R79, R99: a lower C_cfg takes D down with it, a lower FULL the target; a value clamped to the one
held is answered CLAMPED (log entry 5). -/
theorem test_owners_act_on_a_tuning_write :
    seen (fun t => (t.gov.c, t.gov.d))
        (exec (.writeConfig now .chassis) (writes [1, 0, 48, 12, 32, 8, 20, 100, 0] pumping411)) =
      some (100, 100) ∧
    seen (fun t => t.tnk.fill.map Fill.target)
        (exec (.writeConfig now .chassis) (writes [4, 0, 100, 500, 2000, 50, 0, 0, 0] filling)) =
      some (some 2000) ∧
    wrote WorkingConfig.gains [1, 0, 48, 12, 32, 8, 20, 1001, 0] base =
      some (some factory.gains, answer .clamped) := by decide +kernel

theorem test_witness_StructuralWritesAreTakenWholeOrRefused :
    let ws : List Word := [0x70, 0x23, 0x2C, 0, 15, 0, 0]
    let s := writes (13 :: 0 :: ws) parked
    (s.phase = .running ∧ s.hand = [] ∧ s.cfg.working = some factory ∧
      portHolds s .chassis .config = true ∧
      askedOf s .chassis .writeConfig = some (13 :: 0 :: ws) ∧
      oneSpeedSource (rightsOfWords ws) = true ∧ ranksValid (ranksOfWords ws) = true ∧
      s.cfg.storeBusy = false ∧ s.seq.mode = .parked ∧ s.spd.freshness = .fresh ∧
      speedSourceOf (rightsOfWords ws) ≠ speedSourceOf factory.rights ∧
      oneSpeedSource (rightsOfWords [0x71, 0x23, 0x2C, 3, 2, 1, 0]) = false ∧
      (busy parked).cfg.storeBusy = true ∧ (working .pump).seq.mode = .pump) ∧
    (wrote WorkingConfig.timing [6, 0, 500, 5000, 500, 1200, 100, 0, 0] parked =
        some (some ⟨500, 5000, 500, 1200, 100⟩, answer .ok) ∧
      wrote WorkingConfig.timing [6, 0, 499, 5000, 500, 1200, 100, 0, 0] parked =
        some (some factory.timing, answer .badArgument)) ∧
    (wrote WorkingConfig.fillItems [8, 0, 1, 120, 5, 1, 0, 0, 0] parked =
        some (some ⟨1, 120, 5, .external, false⟩, answer .ok) ∧
      wrote WorkingConfig.fillItems [8, 0, 1, 120, 5, 2, 0, 0, 0] parked =
        some (some factory.fillItems, answer .badArgument)) ∧
    (wrote (fun c => c.calibration[7]?) [10, 7, 4095, 1, 9, 9, 0, 0, 0] parked =
        some (some (some ⟨4095, 1, 9, 9⟩), answer .ok) ∧
      wrote (fun c => c.subscriptions.cab) [14, 0, 0, 0xFFFF, 0, 0, 0, 0, 0] parked =
        some (some 0x05FA, answer .ok)) := by decide +kernel

/-- R116: a longer report interval moves the stale timer, a shorter one finds the report too old. -/
theorem test_interval_written :
    let fresh (i : Word) (ms : Nat) : Option (Freshness × Option Timer) :=
      seen (fun t => (t.spd.freshness, t.spd.staleTimer))
        (exec (.writeConfig (after ms) .chassis) (writes [7, 0, 4, 250, 8000, i, 20, 0, 0] parked))
    fresh 200 61 = some (.fresh, some ⟨0, 600⟩) ∧ fresh 20 60 = some (.fresh, some ⟨0, 60⟩) ∧
      fresh 20 61 = some (.stale, none) := by decide +kernel

/-- A scan list of seven entries, channel 0 last: its two parts. -/
def scanPart0 : List Word := [7, 1, 2, 3, 4, 5, 6]
def scanPart1 : List Word := [0, 9, 9, 9, 9, 9, 9]

/-- The chassis gateway has written part 0. -/
def staged : State :=
  { parked with cfg := { parked.cfg with
      staging := portSet parked.cfg.staging .chassis (some ⟨9, 1, [scanPart0]⟩) } }

/-- Both strapping tables' parts: levels 0 to 800 by 100, volumes as many litres. -/
def strapWords (k : Nat) : List Word :=
  [wordOfNat (300 * k), wordOfNat (300 * k), wordOfNat (300 * k + 100), wordOfNat (300 * k + 100),
    wordOfNat (300 * k + 200), wordOfNat (300 * k + 200), 0]

theorem test_witness_TablesAreWrittenPartByPart :
    let s := writes (9 :: 0 :: scanPart0) parked
    let t := writes (9 :: 1 :: scanPart1) staged
    let staging (x : Staging) (s : State) : State :=
      { s with cfg := { s.cfg with staging := portSet s.cfg.staging .chassis (some x) } }
    let last := writes (11 :: 2 :: strapWords 2) (staging ⟨11, 2, [strapWords 0, strapWords 1]⟩ parked)
    (s.phase = .running ∧ s.hand = [] ∧ s.cfg.working = some factory ∧
      portHolds s .chassis .config = true ∧ portHolds s .cab .config = false ∧
      s.cfg.storeBusy = false ∧ s.seq.mode = .parked ∧ scanPart0.length = 7 ∧
      scanPart1.length = 7 ∧ (strapWords 2).length = 7 ∧
      askedOf s .chassis .writeConfig = some (9 :: 0 :: scanPart0)) ∧
    (askedOf t .chassis .writeConfig = some (9 :: 1 :: scanPart1) ∧
      portGet t.cfg.staging .chassis = some ⟨9, 1, [scanPart0]⟩ ∧
      askedOf last .chassis .writeConfig = some (11 :: 2 :: strapWords 2) ∧
      portGet last.cfg.staging .chassis = some ⟨11, 2, [strapWords 0, strapWords 1]⟩ ∧
      partCount 9 ≤ (2 : Word).toNat ∧ (busy parked).cfg.storeBusy = true ∧
      (working .pump).seq.mode = .pump ∧ valueAt (strapWords 0) 0 = 0 ∧
      askedOf (busy t) .chassis .writeConfig = some (9 :: 1 :: scanPart1) ∧
      portGet (busy t).cfg.staging .chassis = some ⟨9, 1, [scanPart0]⟩ ∧
      portGet last.cfg.staging .chassis ≠ some ⟨9, 1, [scanPart0]⟩) ∧
    (askedOf (busy last) .chassis .writeConfig = some (11 :: 2 :: strapWords 2) ∧
      portGet (busy last).cfg.staging .chassis = some ⟨11, 2, [strapWords 0, strapWords 1]⟩ ∧
      0 ∈ (((scanPart0.drop 1).take 6 ++ scanPart1.take 6).map BitVec.toNat).take 7 ∧
      (let table := pointsOfWords (strapWords 0) ++ pointsOfWords (strapWords 1) ++
        pointsOfWords (strapWords 2)
       (table.map StrapPoint.level).Pairwise (· < ·) ∧
       (table.map StrapPoint.volume).Pairwise (· < ·)) ∧
      portGet (busy s).cfg.staging .chassis = none ∧ (1 : Word).toNat < partCount 9) ∧
    (seen (fun x => (x.links.chassis.preparation, x.cfg.staging.chassis))
        (exec (.writeConfig now .chassis) (busy (writes (11 :: 0 :: strapWords 0) parked))) =
        some (answer .busy, none) ∧
      seen (fun x => (x.links.chassis.preparation, x.cfg.staging.chassis))
        (exec (.writeConfig now .chassis) (busy t)) = some (answer .busy, none)) ∧
    (seen (fun x => x.cfg.working.map (fun c => c.strap0.getLast?))
        (exec (.writeConfig now .chassis) last) = some (some (some ⟨800, 800⟩)) ∧
      seen (fun x => x.cfg.staging.chassis) (exec (.writeConfig now .chassis) last) =
        some none) := by
  decide +kernel

/-- R158: a part refused at a check after the first discards the sender's staging record. -/
theorem test_refused_part_and_staging :
    let left (s : State) : Option (Option Preparation × Option Staging) :=
      seen (fun x => (x.links.chassis.preparation, x.cfg.staging.chassis))
        (exec (.writeConfig now .chassis) s)
    left (writes (9 :: 2 :: scanPart1) staged) = some (answer .badArgument, none) ∧
      left (writes (9 :: 1 :: scanPart1) (busy staged)) = some (answer .busy, none) := by
  decide +kernel

/-- R157: a last part that fails a whole-item check is answered BAD_ARGUMENT during a store too: a scan
list without channel 0, a strapping table that does not rise. -/
theorem test_whole_item_checks_come_before_busy :
    let at_ (x : Staging) : State :=
      busy { parked with cfg := { parked.cfg with
        staging := portSet parked.cfg.staging .chassis (some x) } }
    let left (s : State) : Option (Option Preparation × Option Staging) :=
      seen (fun x => (x.links.chassis.preparation, x.cfg.staging.chassis))
        (exec (.writeConfig now .chassis) s)
    left (writes (9 :: 1 :: [1, 0, 0, 0, 0, 0, 0]) (at_ ⟨9, 1, [scanPart0]⟩)) =
        some (answer .badArgument, none) ∧
      left (writes (11 :: 2 :: strapWords 1) (at_ ⟨11, 2, [strapWords 0, strapWords 1]⟩)) =
        some (answer .badArgument, none) ∧
      left (writes (11 :: 2 :: strapWords 2) (at_ ⟨11, 2, [strapWords 0, strapWords 1]⟩)) =
        some (answer .busy, none) := by decide +kernel

theorem test_witness_scan_parts :
    valueAt scanPart0 0 = 7 ∧ scanPart0.length = 7 ∧ scanPart1.length = 7 ∧
      entriesValid 6 (scanPart0.drop 1) = true ∧ entriesValid 1 scanPart1 = true ∧
      scanListOfWords scanPart0 scanPart1 = [1, 2, 3, 4, 5, 6, 0] ∧
      scanListOfWords (6 :: scanPart0.tail) scanPart1 = [1, 2, 3, 4, 5, 6] := by decide +kernel

theorem test_witness_StoresWriteTheImage :
    let s := asked .chassis .storeConfig [] parked
    s.phase = .running ∧ s.cfg.working = some factory ∧
      askedOf s .chassis .storeConfig = some [] ∧ portHolds s .chassis .config = true ∧
      portHolds s .cab .config = false ∧ (busy s).cfg.storeBusy = true ∧
      (working .pump).seq.mode = .pump ∧
      s.cfg.storeBusy = false ∧ s.seq.mode = .parked ∧ s.hand = [] ∧
      storing.cfg.storeBusy = true ∧ storing.hand = [] ∧ storing.cfg.image = imageOf factory ∧
      seen (fun t => t.cfg.configInvalid) (exec (.storeEnd now [(3, 0xFFFF)]) storing) =
        some true := by decide +kernel

/-- R161: the notice of a store that holds, with its checksum, and of one that does not. -/
theorem test_store_end_is_announced :
    let announced (flaws : List (Nat × Word)) : Option (List Notice × Option Int) :=
      seen (fun t => (t.ntq.chassis.queue.filter (fun n => n.kind == .configStored),
          (sourceSlot t .configInvalid).latest))
        (exec (.storeEnd now flaws) storing)
    announced [] = some ([⟨.configStored, 0, wordSum (imageWords factory), 0⟩], some 0) ∧
      announced [(3, 0xFFFF)] =
        some ([⟨.configStored, 1, wordSum (imageWords factory), 0⟩], some 1) := by decide +kernel

end Sys2Proof.Tests
end

section
/-! NTQ's requests and the placing of notices (sections 9.2, 9.3 and 9.5): what the queues hold after a notice is
placed, and what READ_NOTICE, READ_RESET_CAUSE and POST_NOTE answer and leave. -/

namespace Sys2Proof.Machine

/-! ### Words -/

theorem noticeCode_lt (k : NoticeKind) : noticeCode k < 16 := by cases k <;> decide

/-- Section 11.3: the first word of a READ_NOTICE answer, kind above subject. -/
theorem noticeWord_eq (n : Notice) :
    packWord [(8, n.subject.toNat), (4, noticeCode n.kind)] =
      wordOfNat (256 * noticeCode n.kind + n.subject.toNat) := by
  have hkind := noticeCode_lt n.kind
  have hsubject := n.subject.isLt
  unfold packWord
  congr 1
  simp only [packFields]
  omega

/-- Section 11.3: the subject of a NOTE, sender above tag. -/
theorem noteSubject_eq (p : Port) {tag : Nat} (h : tag ≤ 63) :
    packFields [(6, tag), (2, portCode p)] = 64 * portCode p + tag := by
  have hport : portCode p < 3 := by cases p <;> decide
  simp only [packFields]
  omega

/-! ### Placing a notice -/

/-- R151, the lost count as a minimum. -/
theorem enqueue_eq (n : Notice) (q : NtqPort) :
    enqueue n q = if q.queue.length < 16 then { q with queue := q.queue ++ [n] }
      else { q with lost := min 255 (q.lost + 1) } := by
  have hlost : (if q.lost < 255 then q.lost + 1 else 255) = min 255 (q.lost + 1) := by
    split <;> omega
  rw [enqueue, hlost]

/-- To whom a notice is addressed does not depend on what NTQ holds. -/
theorem addressed_of_ntq (s : State) (x : PerPort NtqPort) (n : Notice) (dest : Addressee)
    (p : Port) : addressed { s with ntq := x } n dest p = addressed s n dest p := by
  cases dest <;> rfl

/-- What NTQ holds for a port once a notice posted in `s` has been placed. -/
def ntqWith (n : Notice) (dest : Addressee) (s : State) (p : Port) : NtqPort :=
  if addressed s n dest p then enqueue n (portGet s.ntq p) else portGet s.ntq p

theorem placeFor_eq (n : Notice) (dest : Addressee) (p : Port) (s : State) :
    placeFor n dest p s = { s with ntq := portSet s.ntq p (ntqWith n dest s p) } := by
  unfold placeFor ntqWith
  split
  · rfl
  · rw [portSet_portGet]

/-- Placing a notice changes NTQ alone, each port by itself. -/
theorem placeNotice_eq (n : Notice) (dest : Addressee) (s : State) :
    placeNotice n dest s = { s with ntq :=
      ⟨ntqWith n dest s .chassis, ntqWith n dest s .cab, ntqWith n dest s .panel⟩ } := by
  simp only [placeNotice, placeFor_eq, ntqWith, addressed_of_ntq]
  rfl

theorem portGet_placeNotice (n : Notice) (dest : Addressee) (s : State) (p : Port) :
    portGet (placeNotice n dest s).ntq p = ntqWith n dest s p := by
  rw [placeNotice_eq]
  cases p <;> rfl

/-- A notice addressed to one port alone joins that port's queue. -/
theorem placeNotice_only (n : Notice) (q : Port) (s : State) :
    placeNotice n (.only q) s =
      { s with ntq := portSet s.ntq q (enqueue n (portGet s.ntq q)) } := by
  rw [placeNotice_eq]
  cases q <;> rfl

/-- A notice under way alone is placed by a step that takes every hand-over. -/
theorem takeHandovers_notice {w : When} {s : State} {sender : UnitName} {n : Notice}
    {dest : Addressee} (hall : w.takes = none) (hhand : s.hand = [.notice sender n dest]) :
    takeHandovers w s = placeNotice n dest { s with hand := [] } := by
  rw [takeHandovers_of_hand_single hall hhand, deliver,
    settle_of_hand_nil _ _ _ (placeNotice_hand _ _ _)]

/-! ### Requests -/

/-- A request taken while nothing is under way: its decision, the answer fixed, then what it handed on. -/
theorem happen_serve (w : When) {p : Port} {kind : RequestKind} {s : State} {args : List Word}
    (decide_ : List Word → State → State × Result × List Word)
    (hphase : s.phase = .running) (hhand : s.hand = []) (hasked : askedOf s p kind = some args) :
    happen w (whenRunning (serve p kind decide_)) s =
      .next (takeHandovers w
        (fixAnswer p ⟨kind, (decide_ args (advance w.dt s)).2.1,
          (decide_ args (advance w.dt s)).2.2⟩ (decide_ args (advance w.dt s)).1)) := by
  rw [happen_at_rest w _ hhand, whenRunning_running _ (by simpa using hphase),
    serve_asked decide_ (by simpa using hasked)]

/-- A request whose decision hands nothing on. -/
theorem happen_serve_quiet (w : When) {p : Port} {kind : RequestKind} {s : State}
    {args : List Word} {decide_ : List Word → State → State × Result × List Word}
    {t : State} {r : Result} {data : List Word}
    (hphase : s.phase = .running) (hhand : s.hand = []) (hasked : askedOf s p kind = some args)
    (hdecide : decide_ args (advance w.dt s) = (t, r, data)) (ht : t.hand = []) :
    happen w (whenRunning (serve p kind decide_)) s = .next (fixAnswer p ⟨kind, r, data⟩ t) := by
  rw [happen_serve w decide_ hphase hhand hasked, hdecide,
    takeHandovers_of_hand_nil w (by simpa using ht)]

/-- A request answered OK whose decision changes what NTQ holds for the port that sent it. -/
theorem happen_serve_updateNtq (w : When) {p : Port} {kind : RequestKind} {s : State}
    {args : List Word} {decide_ : List Word → State → State × Result × List Word}
    {data : List Word} (f : NtqPort → NtqPort)
    (hphase : s.phase = .running) (hhand : s.hand = []) (hasked : askedOf s p kind = some args)
    (hdecide : decide_ args (advance w.dt s) = (updateNtq p f (advance w.dt s), .ok, data)) :
    happen w (whenRunning (serve p kind decide_)) s = .next { advance w.dt s with
      ntq := portSet s.ntq p (f (portGet s.ntq p))
      links := answered s p ⟨kind, .ok, data⟩ } := by
  rw [happen_serve_quiet w hphase hhand hasked hdecide (by simpa using hhand)]
  simp only [fixAnswer_eq, updateNtq, answered, advance_ntq, advance_links]

/-! ### READ_NOTICE and READ_RESET_CAUSE -/

/-- R152: the oldest record and the lost count leave the port's queue. -/
theorem exec_readNotice {w : When} {p : Port} {s : State} {args : List Word}
    (hphase : s.phase = .running) (hhand : s.hand = [])
    (hasked : askedOf s p .readNotice = some args) :
    exec (.readNotice w p) s = .next { advance w.dt s with
      ntq := portSet s.ntq p
        { portGet s.ntq p with queue := (portGet s.ntq p).queue.tail, lost := 0 }
      links := answered s p ⟨.readNotice, .ok,
        noticeWords (portGet s.ntq p).queue.head? ++ [wordOfNat (portGet s.ntq p).lost]⟩ } :=
  happen_serve_updateNtq (decide_ := decideReadNotice p) w
    (fun q => { q with queue := q.queue.tail, lost := 0 }) hphase hhand hasked
    (by simp only [decideReadNotice, advance_ntq])

/-- R155: the first cause leaves the port's set. -/
theorem exec_readResetCause {w : When} {p : Port} {s : State} {args : List Word}
    (hphase : s.phase = .running) (hhand : s.hand = [])
    (hasked : askedOf s p .readResetCause = some args) :
    exec (.readResetCause w p) s = .next { advance w.dt s with
      ntq := portSet s.ntq p
        { portGet s.ntq p with
          causes := withoutCause (portGet s.ntq p).causes (firstCause (portGet s.ntq p).causes) }
      links := answered s p ⟨.readResetCause, .ok,
        [wordOfNat (causeOrNone (firstCause (portGet s.ntq p).causes))]⟩ } :=
  happen_serve_updateNtq (decide_ := decideReadResetCause p) w
    (fun q => { q with causes := withoutCause q.causes (firstCause q.causes) }) hphase hhand hasked
    (by simp only [decideReadResetCause, advance_ntq])

/-- R154, R155: the set without its first member, by the priority order. -/
theorem withoutCause_firstCause (c : CauseSet) :
    withoutCause c (firstCause c) =
      (if c.supplyStart then { c with supplyStart := false }
        else if c.resetLine then { c with resetLine := false }
        else if c.configDefaulted then { c with configDefaulted := false }
        else { c with ptoFoundEngaged := false }) := by
  unfold firstCause
  split
  · rfl
  split
  · rfl
  split
  · rfl
  split
  · rfl
  · next hpto =>
    rw [← Bool.eq_false_iff.mpr hpto]
    rfl

/-- Section 11.1: the first member's code, 0 for an empty set. -/
theorem firstCause_code (c : CauseSet) :
    wordOfNat (causeOrNone (firstCause c)) =
      (if c.supplyStart then 1 else if c.resetLine then 2
        else if c.configDefaulted then 3 else if c.ptoFoundEngaged then 4 else 0) := by
  unfold firstCause
  iterate 4
    split
    · rfl
  rfl

/-- Settles O35: the two requests' equations, read by whether the queue is empty and by the first cause. -/
theorem readNoticeAndReadResetCauseRemoveTheFirst :
    Obligations.ReadNoticeAndReadResetCauseRemoveTheFirst := by
  unfold Obligations.ReadNoticeAndReadResetCauseRemoveTheFirst
  intro w p s hphase hhand u q
  refine ⟨fun hasked => ⟨fun hempty => ?_, fun n rest hqueue => ?_⟩, fun hasked => ?_⟩
  · have hq : { q with lost := 0 } = { q with queue := q.queue.tail, lost := 0 } := by
      rw [hempty]; rfl
    rw [exec_readNotice hphase hhand hasked, hq, hempty]
    rfl
  · rw [exec_readNotice hphase hhand hasked, ← noticeWord_eq, hqueue]
    rfl
  · refine ⟨_, _, exec_readResetCause hphase hhand hasked, ?_, ?_, firstCause_code q.causes⟩
    · rw [portGet_portSet_same]
    · rw [portGet_portSet_same]
      exact withoutCause_firstCause q.causes

/-! ### POST_NOTE -/

/-- A code above 2 names no port. -/
theorem portOfCode_of_lt {n : Nat} (h : 2 < n) : portOfCode n = none := by
  obtain ⟨m, rfl⟩ := Nat.exists_eq_add_of_lt h
  rw [show 2 + m + 1 = m + 3 by omega]
  rfl

/-- R153: a note to a port, with a tag in range. -/
theorem decidePostNote_ok (p target : Port) {tag : Word} (value : Word) (u : State)
    (htag : tag.toNat ≤ 63) :
    decidePostNote p [wordOfNat (portCode target), tag, value] u =
      (handOver (.notice .ntq ⟨.note, BitVec.ofNat 8 (64 * portCode p + tag.toNat), value,
        u.timeBase.setWidth 16⟩ (.only target)) u, .ok, []) := by
  have htarget : portOfCode (wordOfNat (portCode target)).toNat = some target := by
    cases target <;> rfl
  simp only [decidePostNote, argAt, List.getD_cons_zero, List.getD_cons_succ, htarget,
    if_pos htag, post, noteSubject_eq p htag, lowWord]

/-- R153: an argument that names no port, or a tag out of range. -/
theorem decidePostNote_refused (p : Port) {target tag : Word} (value : Word) (u : State)
    (h : 2 < target.toNat ∨ 63 < tag.toNat) :
    decidePostNote p [target, tag, value] u = (u, .badArgument, []) := by
  simp only [decidePostNote, argAt, List.getD_cons_zero, List.getD_cons_succ]
  split
  · rfl
  · next port hport =>
    have htag : ¬ tag.toNat ≤ 63 := by
      rcases h with htarget | htag
      · rw [portOfCode_of_lt htarget] at hport
        cases hport
      · omega
    rw [if_neg htag]
    rfl

/-- Settles O36: a notice placed (`placeNotice_eq`), a note posted and then taken as the one hand-over under
way, and a note refused. -/
theorem noticesAndNotesReachTheAddressedQueues :
    Obligations.NoticesAndNotesReachTheAddressedQueues := by
  unfold Obligations.NoticesAndNotesReachTheAddressedQueues
  refine ⟨?placed, ?posted, ?refused⟩
  case placed =>
    intro sender n dest s p q mask subscribes addressed_ t
    have haddressed : addressed s n dest p = true ↔ addressed_ := by
      cases dest <;> simp [addressed, addressed_, subscribes, mask, subscribed, subscriptionBits]
    have hport : portGet t.ntq p = ntqWith n dest s p := portGet_placeNotice n dest s p
    refine ⟨fun h => ?_, fun h => ?_, ?_⟩
    · rw [hport, ntqWith, if_pos (haddressed.mpr h), enqueue_eq]
    · rw [hport, ntqWith, if_neg (mt haddressed.mp h)]
    · simp only [t, deliver, placeNotice_eq]
  case posted =>
    intro w p target s tag value hphase hhand htag hasked u q note x
    have hx : x.hand = [] := (advance_hand w.dt s).trans hhand
    have hexec : exec (.postNote w p) s =
        .next (takeHandovers w { x with hand := [.notice .ntq note (.only target)] }) := by
      change happen w (whenRunning (serve p .postNote (decidePostNote p))) s = _
      rw [happen_serve w _ hphase hhand hasked, decidePostNote_ok p target value _ htag]
      simp only [fixAnswer_eq, handOver, advance_hand, hhand, List.nil_append]
      simp only [x, u, note, answered, advance_links]
    refine ⟨hexec, fun hall => ?_⟩
    rw [hexec, takeHandovers_notice hall rfl, placeNotice_only, enqueue_eq]
    simp only [← hx, x, u, q, advance_ntq]
  case refused =>
    intro w p s target tag value hphase hhand hasked hbad u
    have hu : u.hand = [] := (advance_hand w.dt s).trans hhand
    calc exec (.postNote w p) s
        = happen w (whenRunning (serve p .postNote (decidePostNote p))) s := rfl
      _ = .next (fixAnswer p ⟨.postNote, .badArgument, []⟩ u) :=
          happen_serve_quiet w hphase hhand hasked (decidePostNote_refused p value u hbad) hu
      _ = _ := by rw [fixAnswer_eq, answered_advance]

end Sys2Proof.Machine
end

section
/-! READ_ROW and READ_CONFIG (R68, R159): what each answers, and that a read changes nothing but
its port's link. -/

namespace Sys2Proof.Machine

/-! ### A request that only answers -/

/-- A request whose decision leaves the state as it finds it: its answer is fixed. -/
theorem happen_serve_answers (w : When) {p : Port} {kind : RequestKind} {s : State}
    {args : List Word} {decide_ : List Word → State → State × Result × List Word}
    {r : Result} {data : List Word}
    (hphase : s.phase = .running) (hhand : s.hand = []) (hasked : askedOf s p kind = some args)
    (hdecide : decide_ args (advance w.dt s) = (advance w.dt s, r, data)) :
    happen w (whenRunning (serve p kind decide_)) s =
      .next { advance w.dt s with links := answered s p ⟨kind, r, data⟩ } := by
  rw [happen_serve_quiet w hphase hhand hasked hdecide (by simpa using hhand), fixAnswer_eq,
    answered_advance]

/-! ### READ_ROW -/

theorem rowStateCode_lt (x : RowState) : rowStateCode x < 8 := by cases x <;> decide

/-- Section 11.3: the seventh word of a READ_ROW answer: index, faulted source, state. -/
theorem rowStateWord_eq (x : RowState) (faulted : Bool) {i : Nat} (hi : i < 256) :
    packWord [(3, rowStateCode x), (1, bit faulted), (4, 0), (8, i)] =
      wordOfNat (rowStateCode x + 8 * bit faulted + 256 * i) := by
  have hstate := rowStateCode_lt x
  have hbit : bit faulted < 2 := by cases faulted <;> decide
  unfold packWord
  congr 1
  simp only [packFields]
  omega

/-- What is left of a row's hold at `now`, 0 of a row that does not hold (R68). -/
def holdLeft (now : Count32) (slot : RowSlot) : Nat :=
  if slot.state = .holding then timerLeft now slot.timer else 0

theorem holdLeft_of_timer (now : Count32) {slot : RowSlot} {k : Timer}
    (hstate : slot.state = .holding) (htimer : slot.timer = some k) :
    holdLeft now slot = k.length - (now - k.start).toNat := by
  rw [holdLeft, if_pos hstate, htimer, timerLeft, sinceCount]

theorem holdLeft_of_no_timer (now : Count32) {slot : RowSlot}
    (h : ∀ k, slot.state = .holding → slot.timer ≠ some k) : holdLeft now slot = 0 := by
  unfold holdLeft
  split
  · next hstate => rw [Option.eq_none_iff_forall_ne_some.mpr fun k => h k hstate, timerLeft]
  · rfl

/-- R68: of a row's eight words time moves the last alone. -/
theorem rowAnswer_advance (dt : Nat) (s : State) {i : Nat} (hi : i < 256) :
    rowAnswer (advance dt s) i = rowWords (rowRecord (conf s) i) ++
      [wordOfNat (rowStateCode (rowSlot s i).state +
          8 * bit (sourceFaulted s (rowRecord (conf s) i).source) + 256 * i),
        wordOfNat (holdLeft (advance dt s).timeBase (rowSlot s i))] := by
  rw [rowAnswer, rowStateWord_eq _ _ hi]
  simp only [rowFaulted, conf_advance, rowSlot_advance, sourceFaulted_advance, holdLeft]

theorem decideReadRow_of_lt {row : Word} (u : State) (h : row.toNat < 24) :
    decideReadRow [row] u = (u, .ok, rowAnswer u row.toNat) := if_pos h

theorem decideReadRow_of_le {row : Word} (u : State) (h : 24 ≤ row.toNat) :
    decideReadRow [row] u = (u, .badArgument, []) := if_neg (Nat.not_lt.mpr h)

/-! ### READ_CONFIG -/

/-- Two bytes as one word. -/
theorem bytesWord_eq {high low : Nat} (hhigh : high < 256) (hlow : low < 256) :
    bytesWord high low = wordOfNat (256 * high + low) := by
  unfold bytesWord packWord
  congr 1
  simp only [packFields]
  omega

/-- R156: an item that has parts is one of 1 to 14, and has at most 8. -/
theorem partCount_bounds {item part : Nat} (h : part < partCount item) :
    item ≤ 14 ∧ part < 8 := by
  unfold partCount at h
  split at h
  case h_6 => split at h <;> omega
  all_goals omega

theorem decideReadConfig_of_lt {item part : Word} (u : State)
    (h : part.toNat < partCount item.toNat) :
    decideReadConfig [item, part] u = (u, .ok, configAnswer u item.toNat part.toNat) := if_pos h

theorem decideReadConfig_of_le {item part : Word} (u : State)
    (h : partCount item.toNat ≤ part.toNat) :
    decideReadConfig [item, part] u = (u, .badArgument, []) := if_neg (Nat.not_lt.mpr h)

/-- R159: the echo of item and part, then the part's seven words, at whatever time. -/
theorem configAnswer_advance (dt : Nat) (s : State) {item part : Nat}
    (h : part < partCount item) :
    configAnswer (advance dt s) item part =
      wordOfNat (256 * item + part) :: partWords (conf s) item part := by
  obtain ⟨hitem, hpart⟩ := partCount_bounds h
  rw [configAnswer, bytesWord_eq (by omega) (by omega), conf_advance]

/-- Settles O34: each request's decision keeps the state, and its data are the answer's words. -/
theorem readRowAndReadConfigChangeNothing : Obligations.ReadRowAndReadConfigChangeNothing := by
  unfold Obligations.ReadRowAndReadConfigChangeNothing
  intro w p s hphase hhand u
  refine ⟨fun row hasked => ⟨?rowRead, ?rowRefused⟩,
    fun item part hasked => ⟨?partRead, ?partRefused⟩⟩
  case rowRead =>
    intro hrow slot record left
    have hleft : left = wordOfNat (holdLeft u.timeBase slot) := by
      simp only [left]
      split
      · next k hstate htimer => rw [holdLeft_of_timer _ hstate htimer]
      · next h => rw [holdLeft_of_no_timer _ h]; rfl
    refine happen_serve_answers w hphase hhand hasked ?_
    rw [decideReadRow_of_lt _ hrow, rowAnswer_advance _ _ (by omega), hleft]
  case rowRefused =>
    intro hrow
    exact happen_serve_answers w hphase hhand hasked (decideReadRow_of_le _ hrow)
  case partRead =>
    intro hpart
    refine happen_serve_answers w hphase hhand hasked ?_
    rw [decideReadConfig_of_lt _ hpart, configAnswer_advance _ _ hpart]
  case partRefused =>
    intro hpart
    exact happen_serve_answers w hphase hhand hasked (decideReadConfig_of_le _ hpart)

end Sys2Proof.Machine
end

section
/-! What each command's effect leaves alone: the units it may change, and that the rest of the part
stands.  A property of one unit passes through every other command by this. -/

namespace Sys2Proof.Machine

/-! ### States that differ in some units alone -/

/-- `t` differs from `s` at most in the units listed and in the hand-overs under way.  The THROTTLE
line, which GOV commands, counts as GOV's. -/
structure SameBut (us : List UnitName) (s t : State) : Prop where
  phase : t.phase = s.phase
  timeBase : t.timeBase = s.timeBase
  pending : t.pending = s.pending
  seq : .seq ∉ us → t.seq = s.seq
  lkt : .lkt ∉ us → t.lkt = s.lkt
  gov : .gov ∉ us → t.gov = s.gov
  throttle : .gov ∉ us → t.lio.throttle = s.lio.throttle
  tnk : .tnk ∉ us → t.tnk = s.tnk
  spd : .spd ∉ us → t.spd = s.spd
  cnv : .cnv ∉ us → t.cnv = s.cnv
  cfg : .cfg ∉ us → t.cfg = s.cfg
  ntq : .ntq ∉ us → t.ntq = s.ntq
  links : .lnk ∉ us → t.links = s.links

namespace SameBut

variable {us vs : List UnitName} {s t u : State}

theorem refl (us : List UnitName) (s : State) : SameBut us s s := by
  constructor <;> intros <;> rfl

theorem trans (h : SameBut us s t) (h' : SameBut us t u) : SameBut us s u where
  phase := h'.phase.trans h.phase
  timeBase := h'.timeBase.trans h.timeBase
  pending := h'.pending.trans h.pending
  seq hn := (h'.seq hn).trans (h.seq hn)
  lkt hn := (h'.lkt hn).trans (h.lkt hn)
  gov hn := (h'.gov hn).trans (h.gov hn)
  throttle hn := (h'.throttle hn).trans (h.throttle hn)
  tnk hn := (h'.tnk hn).trans (h.tnk hn)
  spd hn := (h'.spd hn).trans (h.spd hn)
  cnv hn := (h'.cnv hn).trans (h.cnv hn)
  cfg hn := (h'.cfg hn).trans (h.cfg hn)
  ntq hn := (h'.ntq hn).trans (h.ntq hn)
  links hn := (h'.links hn).trans (h.links hn)

theorem mono (h : SameBut us s t) (hs : us ⊆ vs) : SameBut vs s t where
  phase := h.phase
  timeBase := h.timeBase
  pending := h.pending
  seq hn := h.seq fun hm => hn (hs hm)
  lkt hn := h.lkt fun hm => hn (hs hm)
  gov hn := h.gov fun hm => hn (hs hm)
  throttle hn := h.throttle fun hm => hn (hs hm)
  tnk hn := h.tnk fun hm => hn (hs hm)
  spd hn := h.spd fun hm => hn (hs hm)
  cnv hn := h.cnv fun hm => hn (hs hm)
  cfg hn := h.cfg fun hm => hn (hs hm)
  ntq hn := h.ntq fun hm => hn (hs hm)
  links hn := h.links fun hm => hn (hs hm)

/-- A change of one unit's record and of the hand-overs, by the frames of that unit's operations. -/
theorem of_besideSeq (h : besideSeq t = besideSeq s) : SameBut [.seq] s t := by
  simp only [besideSeq, State.mk.injEq, true_and] at h
  constructor <;> simp_all

theorem of_besideLkt (h : besideLkt t = besideLkt s) : SameBut [.lkt] s t := by
  simp only [besideLkt, State.mk.injEq, true_and] at h
  constructor <;> simp_all

theorem of_besideGov (h : besideGov t = besideGov s) : SameBut [.gov] s t := by
  simp only [besideGov, State.mk.injEq, true_and] at h
  constructor <;> simp_all

theorem of_besideTnk (h : besideTnk t = besideTnk s) : SameBut [.tnk] s t := by
  simp only [besideTnk, State.mk.injEq, true_and] at h
  constructor <;> simp_all

theorem of_besideNtq (h : besideNtq t = besideNtq s) : SameBut [.ntq] s t := by
  simp only [besideNtq, State.mk.injEq, true_and] at h
  constructor <;> simp_all

/-! ### The shared parts of an effect -/

theorem handOver (us : List UnitName) (h : Handover) (s : State) :
    SameBut us s (Machine.handOver h s) := by
  constructor <;> intros <;> rfl

theorem updateLink (p : Port) (f : Link → Link) (s : State) :
    SameBut [.lnk] s (Machine.updateLink p f s) := by
  constructor <;> intros
  case links h => exact absurd (by simp) h
  all_goals rfl

theorem whenRunning {f : State → State} (h : SameBut us s (f s)) :
    SameBut us s (Machine.whenRunning f s) :=
  whenRunning_keeps (SameBut us s) f (.refl us s) fun _ => h

theorem fixAnswer (p : Port) (a : Answer) (h : SameBut us s t) (hl : .lnk ∈ us) :
    SameBut us s (Machine.fixAnswer p a t) :=
  h.trans ((updateLink p _ t).mono (by simpa using hl))

theorem serve {p : Port} {kind : RequestKind}
    {decide_ : List Word → State → State × Result × List Word} (hl : .lnk ∈ us)
    (h : ∀ args, SameBut us s (decide_ args s).1) :
    SameBut us s (Machine.serve p kind decide_ s) :=
  serve_keeps (SameBut us s) (.refl us s) fun args _ => (h args).fixAnswer _ _ hl

theorem serveMode {p : Port} {own : Nat} {needsRoll : Bool} {decide_ : State → State × Result}
    (hl : .lnk ∈ us) (h : SameBut us s (decide_ s).1) :
    SameBut us s (Machine.serveMode p own needsRoll decide_ s) :=
  serveMode_keeps (SameBut us s) (.refl us s) (fun _ _ hs => hs.fixAnswer _ _ hl) h

end SameBut

/-! ### What the operations of SPD, LIO, CNV and CFG change -/

theorem sameBut_recomputeSpeed (check : Bool) (u : SpdUnit) (s : State) :
    SameBut [.spd] s (recomputeSpeed check u s) := by
  rw [recomputeSpeed_eq]
  constructor <;> intros
  case spd h => exact absurd (by simp) h
  all_goals rfl

theorem sameBut_becomeStale (s : State) : SameBut [.spd] s (becomeStale s) :=
  sameBut_recomputeSpeed _ _ s

theorem sameBut_publishWord (us : List UnitName) (s : State) : SameBut us s (publishWord s) :=
  (SameBut.handOver us _ s).trans (SameBut.handOver us _ _)

theorem sameBut_publishPump (us : List UnitName) (s : State) : SameBut us s (publishPump s) :=
  (SameBut.handOver us _ s).trans (SameBut.handOver us _ _)

/-- LIO changed but for the THROTTLE line. -/
theorem sameBut_lio (us : List UnitName) (s : State) {l : LioUnit}
    (h : l.throttle = s.lio.throttle) : SameBut us s { s with lio := l } := by
  constructor <;> intros
  case throttle => exact h
  all_goals rfl

/-- The same before another operation. -/
theorem SameBut.after_lio {us : List UnitName} {s t : State} {l : LioUnit}
    (h : SameBut us { s with lio := l } t) (hl : l.throttle = s.lio.throttle) : SameBut us s t :=
  (sameBut_lio us s hl).trans h

theorem sameBut_cnv (s : State) (u : CnvUnit) : SameBut [.cnv] s { s with cnv := u } := by
  constructor <;> intros
  case cnv h => exact absurd (by simp) h
  all_goals rfl

theorem sameBut_cfg (s : State) (u : CfgUnit) : SameBut [.cfg] s { s with cfg := u } := by
  constructor <;> intros
  case cfg h => exact absurd (by simp) h
  all_goals rfl

theorem sameBut_completeConversion (channel : Nat) (rest : List Nat) (code : Nat) (s : State) :
    SameBut [.cnv] s (completeConversion channel rest code s) := by
  unfold completeConversion
  split
  · next hc =>
    rw [takeCode_eq _ _ hc]
    constructor <;> intros
    case cnv h => exact absurd (by simp) h
    all_goals rfl
  · exact sameBut_cnv s _

theorem sameBut_finishStore (flaws : List (Nat × Word)) (s : State) :
    SameBut [.cfg] s (finishStore flaws s) := by
  unfold finishStore
  dsimp only
  refine SameBut.trans ?_ (SameBut.handOver _ _ _)
  split
  · exact sameBut_cfg s _
  · exact (sameBut_cfg s _).trans (SameBut.handOver _ _ _)

theorem sameBut_freeLostLock (s : State) : SameBut [.lkt] s (freeLostLock s) := by
  unfold freeLostLock
  split
  · exact .refl _ _
  · split
    · exact .refl _ _
    · exact .of_besideLkt rfl

theorem sameBut_spdTakesInterval (s : State) : SameBut [.spd] s (spdTakesInterval s) := by
  unfold spdTakesInterval
  split
  · split
    · exact sameBut_becomeStale s
    · constructor <;> intros
      case spd h => exact absurd (by simp) h
      all_goals rfl
  all_goals exact .refl _ _

theorem sameBut_spdTakesMove (s : State) : SameBut [.spd] s (spdTakesMove s) := by
  unfold spdTakesMove
  split
  · exact sameBut_becomeStale s
  · exact .refl _ _

/-- The units that act at a write of the working configuration. -/
def writtenUnits : List UnitName := [.cfg, .gov, .tnk, .spd, .lkt]

theorem sameBut_ite {us : List UnitName} {c : Prop} [Decidable c] {s t : State} {f : State → State}
    (ht : SameBut us s t) (hf : ∀ x, SameBut us x (f x)) :
    SameBut us s (if c then t else f t) := by
  split
  · exact ht
  · exact ht.trans (hf t)

theorem sameBut_applyWrite (c : WorkingConfig) (s : State) :
    SameBut writtenUnits s (applyWrite c s) := by
  unfold applyWrite
  dsimp only
  refine sameBut_ite (sameBut_ite (sameBut_ite (sameBut_ite (sameBut_ite
    ((sameBut_cfg s _).mono (by decide)) ?_) ?_) ?_) ?_) ?_ <;> intro x
  · exact (SameBut.of_besideGov (besideGov_govTakesCeiling x)).mono (by decide)
  · exact (SameBut.of_besideTnk (besideTnk_tnkTakesFull x)).mono (by decide)
  · exact (sameBut_spdTakesInterval x).mono (by decide)
  · exact (sameBut_spdTakesMove x).mono (by decide)
  · exact (sameBut_freeLostLock x).mono (by decide)

theorem sameBut_writeThrough (c : WorkingConfig) (s : State) :
    SameBut writtenUnits s (writeThrough c s) := by
  unfold writeThrough
  split
  · exact .refl _ _
  · exact sameBut_applyWrite c s

theorem sameBut_dropStaging (p : Port) (s : State) : SameBut [.cfg] s (dropStaging p s) :=
  sameBut_cfg s _

theorem sameBut_keepStaging (p : Port) (x : Staging) (s : State) :
    SameBut [.cfg] s (keepStaging p x s) :=
  sameBut_cfg s _

theorem sameBut_refuseWrite (p : Port) (item : Nat) (r : Result) (s : State) :
    SameBut [.cfg] s (refuseWrite p item r s).1 := by
  unfold refuseWrite refuse
  dsimp only
  split
  · exact sameBut_dropStaging p s
  · exact .refl _ _

theorem sameBut_stagePart (p : Port) (item part : Nat) (ws : List Word) (s : State) :
    SameBut writtenUnits s (stagePart p item part ws s).1 := by
  have hdrop : SameBut writtenUnits s (dropStaging p s) :=
    (sameBut_dropStaging p s).mono (by decide)
  have hkeep : ∀ x, SameBut writtenUnits s (keepStaging p x s) := fun x =>
    (sameBut_keepStaging p x s).mono (by decide)
  unfold stagePart refuse
  dsimp only
  split
  · exact hkeep _
  · split
    · split
      · exact hkeep _
      · split
        · exact hdrop
        · exact hdrop.trans (sameBut_writeThrough _ _)
    · exact hdrop

theorem sameBut_decideWriteConfig (p : Port) (args : List Word) (s : State) :
    SameBut writtenUnits s (decideWriteConfig p args s).1 := by
  have hrefuse : ∀ item r, SameBut writtenUnits s (refuseWrite p item r s).1 := fun item r =>
    (sameBut_refuseWrite p item r s).mono (by decide)
  unfold decideWriteConfig
  dsimp only
  repeat' split
  all_goals first
    | exact hrefuse _ _
    | exact sameBut_writeThrough _ _
    | exact sameBut_stagePart _ _ _ _ _
    | exact .refl _ _

/-! ### What the decisions change -/

theorem besideSeq_decideEngage (p : Port) (s : State) :
    besideSeq (decideEngage p s).1 = besideSeq s := by
  unfold decideEngage engageInShift
  repeat' split
  all_goals simp

theorem besideSeq_decideRoll (s : State) : besideSeq (decideRoll s).1 = besideSeq s := by
  unfold decideRoll
  repeat' split
  all_goals simp

theorem besideSeq_decideStopRoll (s : State) : besideSeq (decideStopRoll s).1 = besideSeq s := by
  unfold decideStopRoll
  split <;> simp

theorem besideSeq_decideDisengage (p : Port) (s : State) :
    besideSeq (decideDisengage p s).1 = besideSeq s := by
  unfold decideDisengage disengageInShift takeDisengage
  repeat' split
  all_goals simp

theorem besideSeq_failRelease (s : State) : besideSeq (failRelease s) = besideSeq s := by
  simp [failRelease]

theorem besideGov_decideSetGovernor (p : Port) (args : List Word) (s : State) :
    besideGov (decideSetGovernor p args s).1 = besideGov s := by
  unfold decideSetGovernor
  dsimp only
  repeat' split
  all_goals simp [applyGovernor]

theorem besideTnk_decideSelectSupply (p : Port) (args : List Word) (s : State) :
    besideTnk (decideSelectSupply p args s).1 = besideTnk s := by
  unfold decideSelectSupply
  repeat' split
  all_goals simp [refuse]

theorem besideTnk_decideFillStart (p : Port) (args : List Word) (s : State) :
    besideTnk (decideFillStart p args s).1 = besideTnk s := by
  unfold decideFillStart
  dsimp only
  repeat' split
  all_goals simp [refuse]

theorem besideTnk_decideFillStop (p : Port) (args : List Word) (s : State) :
    besideTnk (decideFillStop p args s).1 = besideTnk s := by
  unfold decideFillStop
  split <;> simp [refuse]

theorem besideLkt_decideAckRow (p : Port) (args : List Word) (s : State) :
    besideLkt (decideAckRow p args s).1 = besideLkt s := by
  unfold decideAckRow
  repeat' split
  all_goals simp [refuse]

theorem besideLkt_decideLock (p : Port) (own : Nat) (holder : Option Port) (args : List Word)
    (s : State) : besideLkt (decideLock p own holder args s).1 = besideLkt s := by
  unfold decideLock
  repeat' split
  all_goals simp [refuse, setLock]

/-- What a WRITE_ROW does to the part: nothing, or a row is rewritten, its record being one that
WRITE_ROW accepts. -/
theorem decideWriteRow_cases (p : Port) (args : List Word) (s : State) :
    (decideWriteRow p args s).1 = s ∨
      ∃ r, rowOfArguments args = some r ∧ 12 ≤ argAt args 0 ∧ argAt args 0 ≤ 23 ∧
        (decideWriteRow p args s).1 = rewriteRow (argAt args 0) r s := by
  unfold decideWriteRow
  split
  · exact .inl rfl
  split
  · exact .inl rfl
  next hw =>
  split
  · exact .inl rfl
  next r hr =>
  split
  · exact .inl rfl
  split
  · exact .inl rfl
  split
  · exact .inl rfl
  · simp only [within, Bool.not_eq_true', Bool.not_eq_false, Bool.and_eq_true,
      decide_eq_true_eq] at hw
    exact .inr ⟨r, hr, hw.1, hw.2, by dsimp only⟩

theorem sameBut_decideWriteRow (p : Port) (args : List Word) (s : State) :
    SameBut [.lkt, .cfg] s (decideWriteRow p args s).1 := by
  rcases decideWriteRow_cases p args s with h | ⟨r, -, -, -, h⟩ <;> rw [h]
  · exact .refl _ _
  · exact ((sameBut_cfg s _).mono (by decide)).trans
      ((SameBut.of_besideLkt (besideLkt_handleRows _ _)).mono (by decide))

/-- What a REPORT_SPEED does to the part: nothing, or it is taken. -/
theorem decideReportSpeed_cases (p : Port) (args : List Word) (s : State) :
    (decideReportSpeed p args s).1 = s ∨
      ∃ x engine, (decideReportSpeed p args s).1 =
        takeReport p (min 1500 (argAt args 0)) x engine s := by
  unfold decideReportSpeed
  split
  · exact .inl rfl
  · split
    · exact .inl rfl
    · split
      · exact .inr ⟨_, _, rfl⟩
      · exact .inl rfl

theorem sameBut_decideReportSpeed (p : Port) (args : List Word) (s : State) :
    SameBut [.spd] s (decideReportSpeed p args s).1 := by
  rcases decideReportSpeed_cases p args s with h | ⟨x, engine, h⟩ <;> rw [h]
  · exact .refl _ _
  · exact sameBut_recomputeSpeed _ _ s

theorem sameBut_decidePostNote (us : List UnitName) (p : Port) (args : List Word) (s : State) :
    SameBut us s (decidePostNote p args s).1 := by
  unfold decidePostNote
  repeat' split
  all_goals first
    | exact .refl _ _
    | exact SameBut.handOver _ _ s

theorem sameBut_decideStoreConfig (p : Port) (args : List Word) (s : State) :
    SameBut [.cfg] s (decideStoreConfig p args s).1 := by
  unfold decideStoreConfig
  repeat' split
  all_goals first
    | exact .refl _ _
    | exact sameBut_cfg s _

theorem decideReadStatus_state (args : List Word) (s : State) :
    (decideReadStatus args s).1 = s := by
  unfold decideReadStatus
  split <;> rfl

theorem decideReadRow_state (args : List Word) (s : State) : (decideReadRow args s).1 = s := by
  unfold decideReadRow
  split <;> rfl

theorem decideReadConfig_state (args : List Word) (s : State) :
    (decideReadConfig args s).1 = s := by
  unfold decideReadConfig
  split <;> rfl

/-! ### Every command -/

/-- The commands that reset the part or end its start-up load (R162, R163). -/
def startsPart : Instr → Bool
  | .supplyStart _ | .resetLine _ | .resetLineRelease _ | .startUpLoadEnd _ _ => true
  | _ => false

/-- The units whose records a command's own effect may change, once the part runs. -/
def touches : Instr → List UnitName
  | .startUpWaitExpiry _ => [.seq, .ntq]
  | .shiftTimerExpiry _ | .spinDownLimitExpiry _ | .releaseTimerExpiry _ => [.seq]
  | .engage _ _ | .roll _ _ | .stopRoll _ _ | .disengage _ _ => [.seq, .lnk]
  | .gateEnd _ | .staleTimerExpiry _ | .disagreementTimerExpiry _ => [.spd]
  | .reportSpeed _ _ => [.spd, .lnk]
  | .scanPeriodExpiry _ | .conversionCompletion _ _ => [.cnv]
  | .throttlePwmPeriodStart _ => [.gov]
  | .selectFall _ _ | .selectRise _ _ _ | .answerCompletion _ _ | .wordCompletion _ _ _
  | .readStatus _ _ | .readRow _ _ | .readConfig _ _ | .postNote _ _ => [.lnk]
  | .readNotice _ _ | .readResetCause _ _ => [.ntq, .lnk]
  | .setGovernor _ _ => [.gov, .lnk]
  | .selectSupply _ _ | .fillStart _ _ | .fillStop _ _ => [.tnk, .lnk]
  | .fillTimeoutExpiry _ | .stallWindowExpiry _ => [.tnk]
  | .holdTimerExpiry _ _ => [.lkt]
  | .ackRow _ _ | .lockTableSet _ _ | .lockTableClear _ _ => [.lkt, .lnk]
  | .writeRow _ _ => [.lkt, .cfg, .lnk]
  | .writeConfig _ _ => writtenUnits ++ [.lnk]
  | .storeConfig _ _ => [.cfg, .lnk]
  | .storeEnd _ _ => [.cfg]
  | _ => []

/-- A due expiry's effect, or none. -/
theorem sameBut_due {us : List UnitName} {c : Prop} [Decidable c] {s t : State}
    (h : SameBut us s t) : SameBut us s (if c then t else s) := by
  split
  · exact h
  · exact .refl _ _

theorem sameBut_addCauseAll (c : ResetCause) (s : State) : SameBut [.ntq] s (addCauseAll c s) :=
  .of_besideNtq rfl

theorem sameBut_leaveInit (s : State) : SameBut [.seq, .ntq] s (leaveInit s) := by
  have h : ∀ m, SameBut [.seq, .ntq] s (transition m none .start s) := fun m =>
    (SameBut.of_besideSeq (besideSeq_transition _ _ _ s)).mono (by decide)
  have hadd : ∀ x, SameBut [.seq, .ntq] x (addCauseAll .ptoFoundEngaged x) := fun x =>
    (sameBut_addCauseAll _ x).mono (by decide)
  unfold leaveInit
  split
  · exact (h _).trans (hadd _)
  · exact h _

theorem sameBut_acceptInput (i : DiscreteInput) (s : State) : SameBut [] s (acceptInput i s) := by
  unfold acceptInput
  dsimp only
  split
  · exact (sameBut_publishWord _ _).after_lio rfl
  · exact sameBut_lio _ s rfl

theorem sameBut_takeGate (s : State) :
    SameBut [.spd] s (match s.lio.gate with
      | none => s
      | some g =>
        if timerDue s.timeBase (some g) then takeGate s.lio.gateCount g.length (startGate s)
        else s) := by
  split
  · exact .refl _ _
  · exact sameBut_due ((sameBut_recomputeSpeed _ _ (startGate s)).after_lio rfl)

theorem sameBut_throttle (s : State) (t : Throttle) :
    SameBut [.gov] s { s with lio := { s.lio with throttle := t } } := by
  constructor <;> intros
  case throttle h => exact absurd (by simp) h
  all_goals rfl

theorem sameBut_convert (code : BitVec 12) (s : State) :
    SameBut [.cnv] s (match s.cnv.toConvert with
      | [] => s
      | channel :: rest =>
        if conversionTime ≤ sinceCount s.usCount s.cnv.begun then
          completeConversion channel rest code.toNat s
        else s) := by
  split
  · exact .refl _ _
  · exact sameBut_due (sameBut_completeConversion _ _ _ s)

theorem sameBut_periodStart (s : State) :
    SameBut [.gov] s (match s.lio.throttle.periodStart with
      | none => s
      | some t => if pwmPeriod ≤ sinceCount s.usCount t then startPwm s else s) := by
  split
  · exact .refl _ _
  · exact sameBut_due (sameBut_throttle s _)

theorem sameBut_selectFall (p : Port) (s : State) :
    SameBut [.lnk] s (if s.phase = .running then
        if (portGet s.links p).selectLow then s else updateLink p (linkAtFall (statusWord s p)) s
      else updateLink p (fun l => { l with selectLow := true }) s) := by
  split
  · split
    · exact .refl _ _
    · exact .updateLink _ _ s
  · exact .updateLink _ _ s

theorem sameBut_serveLock (p : Port) (own : Nat) (holder : Option Port) (s : State) :
    SameBut [.lkt, .lnk] s (serveLock p own holder s) := by
  unfold serveLock
  split
  · exact .refl _ _
  · refine sameBut_due (.serve (by decide) fun args => ?_)
    exact (SameBut.of_besideLkt (besideLkt_decideLock p own holder args s)).mono (by decide)

/-- A request's step: its decision's units and its own link. -/
theorem SameBut.request {us : List UnitName} {p : Port} {kind : RequestKind}
    {decide_ : List Word → State → State × Result × List Word} {s : State}
    (h : ∀ args, SameBut us s (decide_ args s).1) :
    SameBut (us ++ [.lnk]) s (Machine.whenRunning (Machine.serve p kind decide_) s) :=
  .whenRunning (.serve (by simp) fun args => (h args).mono (by simp))

/-- A REQUEST_MODE's step. -/
theorem SameBut.modeRequest {p : Port} {own : Nat} {needsRoll : Bool}
    {decide_ : State → State × Result} {s : State}
    (h : besideSeq (decide_ s).1 = besideSeq s) :
    SameBut [.seq, .lnk] s (Machine.whenRunning (Machine.serveMode p own needsRoll decide_) s) :=
  .whenRunning (.serveMode (by decide) ((SameBut.of_besideSeq h).mono (by decide)))

/-- A request that reads. -/
theorem SameBut.readRequest {p : Port} {kind : RequestKind}
    {decide_ : List Word → State → State × Result × List Word} {s : State}
    (h : ∀ args, (decide_ args s).1 = s) :
    SameBut [.lnk] s (Machine.whenRunning (Machine.serve p kind decide_) s) :=
  .request (us := []) fun args => by rw [h]; exact .refl _ _

/-- A command's own effect leaves every unit alone that it is not said to touch. -/
theorem sameBut_effectOf (c : Instr) (s : State) (hc : startsPart c = false) :
    SameBut (touches c) s (effectOf c s) := by
  cases c with
  | supplyStart w | resetLine w | resetLineRelease w | startUpLoadEnd w lines => cases hc
  | startUpWaitExpiry w => exact .whenRunning (sameBut_due (sameBut_leaveInit s))
  | settleIntervalExpiry w =>
    exact .whenRunning (sameBut_due ((sameBut_publishWord [] _).after_lio rfl))
  | stabilityTimerExpiry w i => exact .whenRunning (sameBut_due (sameBut_acceptInput i s))
  | tachEdge w =>
    dsimp only [effectOf, touches]
    exact .whenRunning ((sameBut_publishPump [] _).after_lio rfl)
  | silenceTimerExpiry w =>
    exact .whenRunning (sameBut_due ((sameBut_publishPump [] _).after_lio rfl))
  | roadPulseEdge w =>
    dsimp only [effectOf, touches]
    exact .whenRunning (sameBut_lio [] s rfl)
  | gateEnd w =>
    dsimp only [effectOf, touches]
    exact .whenRunning (sameBut_takeGate s)
  | scanPeriodExpiry w => exact .whenRunning (sameBut_due (sameBut_cnv s _))
  | conversionCompletion w code =>
    dsimp only [effectOf, touches]
    exact .whenRunning (sameBut_convert code s)
  | throttlePwmPeriodStart w =>
    dsimp only [effectOf, touches]
    exact .whenRunning (sameBut_periodStart s)
  | selectFall w p => exact sameBut_selectFall p s
  | selectRise w p part => exact .updateLink _ _ s
  | answerCompletion w p => exact .updateLink _ _ s
  | wordCompletion w p word => exact .updateLink _ _ s
  | inputSample w lines =>
    dsimp only [effectOf, touches]
    exact .whenRunning (sameBut_lio [] s rfl)
  | readStatus w p => exact .readRequest fun args => decideReadStatus_state args s
  | readRow w p => exact .readRequest fun args => decideReadRow_state args s
  | readConfig w p => exact .readRequest fun args => decideReadConfig_state args s
  | readNotice w p => exact .request (us := [.ntq]) fun _ => .of_besideNtq rfl
  | readResetCause w p => exact .request (us := [.ntq]) fun _ => .of_besideNtq rfl
  | reportSpeed w p => exact .request (us := [.spd]) fun args => sameBut_decideReportSpeed p args s
  | engage w p => exact .modeRequest (besideSeq_decideEngage p s)
  | roll w p => exact .modeRequest (besideSeq_decideRoll s)
  | stopRoll w p => exact .modeRequest (besideSeq_decideStopRoll s)
  | disengage w p => exact .modeRequest (besideSeq_decideDisengage p s)
  | setGovernor w p =>
    exact .request (us := [.gov]) fun args => .of_besideGov (besideGov_decideSetGovernor p args s)
  | selectSupply w p =>
    exact .request (us := [.tnk]) fun args => .of_besideTnk (besideTnk_decideSelectSupply p args s)
  | fillStart w p =>
    exact .request (us := [.tnk]) fun args => .of_besideTnk (besideTnk_decideFillStart p args s)
  | fillStop w p =>
    exact .request (us := [.tnk]) fun args => .of_besideTnk (besideTnk_decideFillStop p args s)
  | ackRow w p =>
    exact .request (us := [.lkt]) fun args => .of_besideLkt (besideLkt_decideAckRow p args s)
  | writeRow w p =>
    exact .request (us := [.lkt, .cfg]) fun args => sameBut_decideWriteRow p args s
  | lockTableSet w p => exact .whenRunning (sameBut_serveLock _ _ _ s)
  | lockTableClear w p => exact .whenRunning (sameBut_serveLock _ _ _ s)
  | writeConfig w p =>
    exact .request (us := writtenUnits) fun args => sameBut_decideWriteConfig p args s
  | storeConfig w p =>
    exact .request (us := [.cfg]) fun args => sameBut_decideStoreConfig p args s
  | storeEnd w flaws => exact .whenRunning (sameBut_due (sameBut_finishStore flaws s))
  | postNote w p => exact .request (us := []) fun args => sameBut_decidePostNote [] p args s
  | shiftTimerExpiry w =>
    exact .whenRunning (sameBut_due (.of_besideSeq (besideSeq_expireShift s)))
  | spinDownLimitExpiry w =>
    exact .whenRunning (sameBut_due (.of_besideSeq (besideSeq_enterRelease _ s)))
  | releaseTimerExpiry w =>
    exact .whenRunning (sameBut_due (.of_besideSeq (besideSeq_failRelease s)))
  | holdTimerExpiry w row =>
    exact .whenRunning (sameBut_due (.of_besideLkt (besideLkt_handleRows _ s)))
  | fillTimeoutExpiry w =>
    exact .whenRunning (sameBut_due (.of_besideTnk (besideTnk_endFill _ _ s)))
  | stallWindowExpiry w =>
    exact .whenRunning (sameBut_due (.of_besideTnk (besideTnk_endFill _ _ s)))
  | staleTimerExpiry w => exact .whenRunning (sameBut_due (sameBut_becomeStale s))
  | disagreementTimerExpiry w =>
    exact .whenRunning (sameBut_due (sameBut_recomputeSpeed _ _ s))

end Sys2Proof.Machine
end

section
/-! What a step keeps, sorted by resets, the start-up load, the other commands and the hand-overs;
that a step takes every hand-over; that SEQ's record stays sound. -/

namespace Sys2Proof.Machine

/-! ### A step, sorted -/

/-- A hand-over changes the unit that takes it alone. -/
theorem sameBut_deliver (h : Handover) (s : State) : SameBut [(path h).2] s (deliver h s) := by
  cases h with
  | notice sender n dest => exact .of_besideNtq (besideNtq_placeNotice n dest s)
  | wordToSeq word => exact .of_besideSeq (besideSeq_seqTakesWord word s)
  | releaseToSeq => exact .of_besideSeq (besideSeq_seqTakesRelease s)
  | speedToSeq => exact .of_besideSeq (besideSeq_rederive s)
  | pumpToSeq np => exact .of_besideSeq (besideSeq_seqTakesPump np s)
  | blocksToSeq b => exact .of_besideSeq (besideSeq_seqTakesBlocks b s)
  | blocksToGov b => exact .of_besideGov (besideGov_govTakesBlocks b s)
  | blocksToTnk b => exact .of_besideTnk (besideTnk_tnkTakesBlocks b s)
  | arrival sender x v => exact .of_besideLkt (besideLkt_lktTakesArrival x v s)
  | modeToLkt m => exact .of_besideLkt (besideLkt_lktTakesMode m s)
  | modeToGov m => exact .of_besideGov (besideGov_govTakesMode m s)
  | modeToTnk m => exact .of_besideTnk (besideTnk_tnkTakesMode m s)
  | dischargeToGov v faulted => exact .of_besideGov (besideGov_govTakesDischarge v faulted s)
  | intakeToGov v faulted => exact .of_besideGov (besideGov_govTakesIntake v faulted s)
  | levelToTnk n v faulted => exact .of_besideTnk (besideTnk_tnkTakesLevel n v faulted s)
  | supplyToGov x => exact .of_besideGov (besideGov_govTakesSupply x s)

/-- Hand-overs taken off the state. -/
theorem sameBut_hand (us : List UnitName) (s : State) (hand : List Handover) :
    SameBut us s { s with hand := hand } := by
  constructor <;> intros <;> rfl

/-- The next hand-over taken. -/
theorem sameBut_taken (h : Handover) (rest : List Handover) (s : State) :
    SameBut [(path h).2] s (deliver h { s with hand := rest }) :=
  (sameBut_hand _ s rest).trans (sameBut_deliver h _)

/-- The state that the end of the start-up load leaves before hand-overs are taken (R162). -/
def loadEnd (lines : Levels) (s : State) : State :=
  placeTable (startScan (startPwm (startGate (startInputs lines (loadRecords (loadConfig s))))))

/-- What a reset, a release of the RESET line or the end of the load gives. -/
theorem startsPart_gives (P : State → Prop) {c : Instr} {s : State} (hc : startsPart c ≠ false)
    (hs : P s) (hreset : ∀ phase cause, phase ≠ .running → P (resetTo phase cause s))
    (hrelease : s.phase = .held → P { s with phase := .loading })
    (hload : ∀ lines, s.phase = .loading → P (loadEnd lines s)) : P (effectOf c s) := by
  cases c with
  | supplyStart w =>
    simp only [effectOf]
    split
    · exact hreset _ _ (by decide)
    · exact hreset _ _ (by decide)
  | resetLine w => exact hreset _ _ (by decide)
  | resetLineRelease w =>
    simp only [effectOf]
    split
    · next h => exact hrelease h
    · exact hs
  | startUpLoadEnd w lines =>
    simp only [effectOf]
    split
    · next h => exact hload lines h
    · exact hs
  | _ => exact absurd rfl hc

/-- A property that the resets, the end of the load, the other commands' effects, time, the queue
and every hand-over keep is kept by every step. -/
theorem step_keeps_sorted (P : State → Prop)
    (hqueue : ∀ s rest, P s → P { s with pending := rest })
    (htime : ∀ dt s, P s → P (advance dt s))
    (hhand : ∀ (h : Handover) (rest : List Handover) (s : State), P s → h ∈ s.hand →
      (∀ g ∈ rest, g ∈ s.hand) → P (deliver h { s with hand := rest }))
    (hreset : ∀ phase cause s, phase ≠ .running → P s → P (resetTo phase cause s))
    (hrelease : ∀ s, s.phase = .held → P s → P { s with phase := .loading })
    (hload : ∀ lines s, s.phase = .loading → P s → P (loadEnd lines s))
    (heffect : ∀ c s, startsPart c = false → P s → P (effectOf c s))
    {s t : State} (hs : P s) (h : step s = .next t) : P t := by
  refine step_keeps P hqueue htime hhand (fun c s hs => ?_) hs h
  by_cases hc : startsPart c = false
  · exact heffect c s hc hs
  · exact startsPart_gives P hc hs (fun phase cause hp => hreset phase cause s hp hs)
      (fun hp => hrelease s hp hs) (fun lines hp => hload lines s hp hs)

/-! ### Every hand-over is taken -/

/-- Settles O3: settling within its bound leaves no hand-over (`settleAll_hand`), and time adds
none. -/
theorem stepTakesEveryHandOver : Obligations.StepTakesEveryHandOver := by
  unfold Obligations.StepTakesEveryHandOver
  intro s t htakes h
  rcases step_cases h with ⟨-, rfl⟩ | ⟨c, rest, hp, h⟩
  · simp [tick, pass]
  · rw [exec_next h, takeHandovers, htakes c rest hp]
    exact settleAll_hand _ _

/-! ### SEQ's record -/

section ModeRecord

variable {s : State}

/-- A release is entered with no request but a DISENGAGE. -/
theorem seqSound_releaseOutcome (why : Reason) {r : Option OpenRequest}
    (before after : List Handover) (hr : r.map OpenRequest.kind ≠ some .engage) :
    SeqSound (releaseOutcome s why r before after).seq := by
  unfold releaseOutcome
  dsimp only
  split
  · simp [releasingSeq, SeqSound, ptoShiftFor, pumpReadyFor, requestFits, hr]
  · rcases derivedMode_cases s with h | h <;>
      simp [restingSeq, SeqSound, h, ptoShiftFor, pumpReadyFor, requestFits]

/-- SPIN_DOWN is entered with no request but a DISENGAGE. -/
theorem seqSound_spinDownOutcome (why : Reason) {r : Option OpenRequest}
    (hr : r.map OpenRequest.kind ≠ some .engage) : SeqSound (spinDownOutcome s why r).seq := by
  unfold spinDownOutcome
  dsimp only
  split
  · exact seqSound_releaseOutcome _ _ _ hr
  · simp [SeqSound, ptoShiftFor, pumpReadyFor, requestFits, hr]

/-- What a sound record says of the open request in a mode. -/
theorem SeqSound.no_engage (h : SeqSound s.seq) (hm : s.seq.mode ≠ .shiftingIn) :
    s.seq.request.map OpenRequest.kind ≠ some .engage := by
  obtain ⟨-, -, -, -, -, -, hfits⟩ := h
  intro hk
  cases hmode : s.seq.mode with
  | shiftingIn => exact hm hmode
  | _ => simp [requestFits, hmode, hk] at hfits

theorem SeqSound.no_request (h : SeqSound s.seq) (hm : s.seq.mode ≠ .shiftingIn)
    (hd : s.seq.mode ≠ .disengaging) : s.seq.request = none := by
  obtain ⟨-, -, -, -, -, -, hfits⟩ := h
  cases hreq : s.seq.request with
  | none => rfl
  | some r =>
    cases hmode : s.seq.mode with
    | shiftingIn => exact absurd hmode hm
    | disengaging => exact absurd hmode hd
    | _ => simp [requestFits, hmode, hreq] at hfits

/-- A transition to a mode that owns no timer and no request. -/
theorem seqSound_transition {m : Mode} (why : Reason) (hm : m ≠ .shiftingIn) (hd : m ≠ .disengaging)
    (hr : s.seq.request = none) : SeqSound (transition m none why s).seq := by
  rw [transition_eq]
  cases m <;> simp_all [SeqSound, requestFits, ptoShiftFor, pumpReadyFor]

/-- The same, the request being closed with it. -/
theorem seqSound_closeRequest_transition {m : Mode} (why : Reason) (e : Ending)
    (hm : m ≠ .shiftingIn) (hd : m ≠ .disengaging) :
    SeqSound (closeRequest e (transition m none why s)).seq := by
  rw [closeRequest_eq, transition_eq]
  cases m <;> simp_all [SeqSound, requestFits, ptoShiftFor, pumpReadyFor]

theorem derivedMode_ne_shiftingIn (s : State) : derivedMode s ≠ .shiftingIn := by
  rcases derivedMode_cases s with h | h <;> simp [h]

theorem derivedMode_ne_disengaging (s : State) : derivedMode s ≠ .disengaging := by
  rcases derivedMode_cases s with h | h <;> simp [h]

theorem seqSound_completeRelease : SeqSound (completeRelease s).seq :=
  seqSound_closeRequest_transition _ _ (derivedMode_ne_shiftingIn s) (derivedMode_ne_disengaging s)

theorem seqSound_enterRelease (why : Reason) (h : SeqSound s.seq) (hm : s.seq.mode ≠ .shiftingIn) :
    SeqSound (enterRelease why s).seq := by
  rw [enterRelease_eq]
  exact seqSound_releaseOutcome _ _ _ (h.no_engage hm)

theorem seqSound_abandonShift (why : Reason) (e : Ending) :
    SeqSound (abandonShift why e s).seq := by
  rw [abandonShift_eq]
  exact seqSound_releaseOutcome _ _ _ (by simp)

theorem seqSound_actOnPtoBlock (h : SeqSound s.seq) : SeqSound (actOnPtoBlock s).seq := by
  rw [actOnPtoBlock_eq]
  split
  · exact h
  split
  · exact seqSound_releaseOutcome _ _ _ (by simp)
  next hm =>
  split
  · exact seqSound_spinDownOutcome _ (h.no_engage hm)
  · exact h

theorem seqSound_completeShift : SeqSound (completeShift s).seq :=
  seqSound_actOnPtoBlock (seqSound_closeRequest_transition _ _ (by decide) (by decide))

theorem seqSound_rederive (h : SeqSound s.seq) : SeqSound (rederive s).seq := by
  unfold rederive
  split
  · next hd =>
    refine seqSound_transition _ (derivedMode_ne_shiftingIn s) (derivedMode_ne_disengaging s)
      (h.no_request ?_ ?_) <;> intro hm <;> simp [hm, standing] at hd
  · exact h

theorem seqSound_seqTakesWord (word : Nat) (h : SeqSound s.seq) :
    SeqSound (seqTakesWord word s).seq := by
  unfold seqTakesWord
  split
  · exact h
  · exact seqSound_rederive h
  · exact seqSound_rederive h
  · split
    · exact seqSound_completeShift
    · split
      · exact h
      · exact seqSound_abandonShift _ _
  · next hm =>
    split
    · exact h
    · exact seqSound_enterRelease _ h (by simp [hm])
  · next hm =>
    split
    · exact h
    · exact seqSound_enterRelease _ h (by simp [hm])
  · next hm =>
    split
    · exact h
    · split
      · exact seqSound_completeRelease
      · exact seqSound_enterRelease _ h (by simp [hm])
  · next hm =>
    split
    · exact h
    · exact seqSound_transition _ (derivedMode_ne_shiftingIn s) (derivedMode_ne_disengaging s)
        (h.no_request (by simp [hm]) (by simp [hm]))

theorem seqSound_seqTakesRelease (h : SeqSound s.seq) : SeqSound (seqTakesRelease s).seq := by
  unfold seqTakesRelease
  split
  · exact seqSound_completeRelease
  · exact h

theorem seqSound_seqTakesPump (np : Nat) (h : SeqSound s.seq) :
    SeqSound (seqTakesPump np s).seq := by
  unfold seqTakesPump
  split
  · next hm => exact seqSound_enterRelease _ h (by simp [hm.1])
  · exact h

theorem seqSound_seqTakesBlocks (b : BlockSet) (h : SeqSound s.seq) :
    SeqSound (seqTakesBlocks b s).seq := by
  refine seqSound_actOnPtoBlock ?_
  obtain ⟨hsub, hshift, hspin, hrelease, hpto, -, hfits⟩ := h
  exact ⟨hsub, hshift, hspin, hrelease, hpto, rfl, hfits⟩

theorem seqSound_deliver (h : Handover) (hs : SeqSound s.seq) : SeqSound (deliver h s).seq := by
  cases h with
  | wordToSeq word => exact seqSound_seqTakesWord word hs
  | releaseToSeq => exact seqSound_seqTakesRelease hs
  | speedToSeq => exact seqSound_rederive hs
  | pumpToSeq np => exact seqSound_seqTakesPump np hs
  | blocksToSeq b => exact seqSound_seqTakesBlocks b hs
  | _ => rw [(sameBut_deliver _ s).seq (by simp [path])]; exact hs

theorem seqSound_leaveInit (h : SeqSound s.seq) (hm : s.seq.mode = .init) :
    SeqSound (leaveInit s).seq := by
  have hr : s.seq.request = none := h.no_request (by simp [hm]) (by simp [hm])
  unfold leaveInit
  split
  · exact seqSound_transition _ (by decide) (by decide) hr
  · exact seqSound_transition _ (derivedMode_ne_shiftingIn s) (derivedMode_ne_disengaging s) hr

theorem seqSound_expireShift : SeqSound (expireShift s).seq := by
  rw [expireShift_eq]
  simp [releasingSeq, SeqSound, ptoShiftFor, pumpReadyFor, requestFits]

theorem seqSound_startShift (p : Port) : SeqSound (startShift p s).seq := by
  unfold startShift
  dsimp only
  have hshift : ∀ t, SeqSound
      { (transition .shiftingIn none .request (openRequest p .engage s)).seq with
        shiftTimer := some t } := by
    intro t
    rw [transition_eq]
    simp [openRequest, SeqSound, ptoShiftFor, pumpReadyFor, requestFits]
  split
  · exact seqSound_actOnPtoBlock (hshift _)
  split
  · exact seqSound_completeShift
  · exact hshift _

/-- A request written anew in a mode that fits its kind. -/
theorem seqSound_openRequest (p : Port) {kind : OperationKind} (h : SeqSound s.seq)
    (hk : requestFits s.seq.mode (some ⟨p, kind, s.timeBase⟩) = true) :
    SeqSound (openRequest p kind s).seq := by
  obtain ⟨hsub, hshift, hspin, hrelease, hpto, hready, -⟩ := h
  exact ⟨hsub, hshift, hspin, hrelease, hpto, hready, hk⟩

theorem seq_postOutcome (e : Ending) (n : Nat) (s : State) : (postOutcome e n s).seq = s.seq := by
  unfold postOutcome
  split <;> rfl

/-- The same behind the outcome posted for the request displaced. -/
theorem seqSound_openRequest_superseded (p : Port) {kind : OperationKind} (h : SeqSound s.seq)
    (hk : ∀ t, requestFits s.seq.mode (some ⟨p, kind, t⟩) = true) (e : Ending) (n : Nat) :
    SeqSound (openRequest p kind (postOutcome e n s)).seq :=
  seqSound_openRequest p (by rw [seq_postOutcome]; exact h) (by rw [seq_postOutcome]; exact hk _)

theorem seqSound_decideEngage (p : Port) (h : SeqSound s.seq) :
    SeqSound (decideEngage p s).1.seq := by
  unfold decideEngage
  split
  · exact h
  split
  · exact h
  · exact h
  · exact h
  · split
    · exact h
    · exact seqSound_startShift p
  · next hm =>
    unfold engageInShift
    split
    · exact h
    split
    · exact seqSound_openRequest_superseded p h (fun t => by rw [hm]; rfl) _ _
    · exact h
  all_goals exact h

theorem seqSound_decideRoll (h : SeqSound s.seq) : SeqSound (decideRoll s).1.seq := by
  unfold decideRoll
  split
  · exact h
  next hm =>
  have hr : s.seq.request = none :=
    h.no_request (by simp [not_not.mp hm]) (by simp [not_not.mp hm])
  split
  · exact h
  split
  · exact seqSound_actOnPtoBlock (seqSound_transition _ (by decide) (by decide) hr)
  · exact h

theorem seqSound_decideStopRoll (h : SeqSound s.seq) : SeqSound (decideStopRoll s).1.seq := by
  unfold decideStopRoll
  split
  · next hm =>
    have hm : s.seq.mode = .roll := by
      simp only [Bool.and_eq_true, beq_iff_eq] at hm
      exact hm.1.1
    have hr : s.seq.request = none := h.no_request (by simp [hm]) (by simp [hm])
    exact seqSound_actOnPtoBlock (seqSound_transition _ (by decide) (by decide) hr)
  · exact h

theorem seqSound_decideDisengage (p : Port) (h : SeqSound s.seq) :
    SeqSound (decideDisengage p s).1.seq := by
  unfold decideDisengage
  split
  · exact h
  · exact h
  · exact h
  · exact h
  · rw [disengageInShift_eq]
    exact seqSound_releaseOutcome _ _ _ (by simp)
  · rw [enterSpinDown_eq]
    exact seqSound_spinDownOutcome _ (by simp [openRequest])
  · rw [enterSpinDown_eq]
    exact seqSound_spinDownOutcome _ (by simp [openRequest])
  · next hm =>
    unfold takeDisengage
    split
    · exact seqSound_openRequest p h (by rw [hm]; rfl)
    split
    · exact h
    · exact seqSound_openRequest_superseded p h (fun t => by rw [hm]; rfl) _ _

theorem seqSound_modeRequest {p : Port} {own : Nat} {needsRoll : Bool}
    {decide_ : State → State × Result} (h : SeqSound s.seq) (hd : SeqSound (decide_ s).1.seq) :
    SeqSound (whenRunning (serveMode p own needsRoll decide_) s).seq :=
  whenRunning_keeps (fun s => SeqSound s.seq) _ h fun _ =>
    serveMode_keeps (fun s => SeqSound s.seq) h (fun _ _ h => h) hd

/-- A due expiry's effect, or none, while the part runs. -/
theorem whenDue_keeps (P : State → Prop) {c : State → Prop} [∀ s, Decidable (c s)]
    {f : State → State} (hs : P s) (h : c s → P (f s)) :
    P (whenRunning (fun s => if c s then f s else s) s) := by
  refine whenRunning_keeps P _ hs fun _ => ?_
  split
  · next hc => exact h hc
  · exact hs

theorem seqSound_effectOf (c : Instr) (hc : startsPart c = false) (h : SeqSound s.seq) :
    SeqSound (effectOf c s).seq := by
  cases c with
  | supplyStart | resetLine | resetLineRelease | startUpLoadEnd => cases hc
  | startUpWaitExpiry w =>
    exact whenDue_keeps (fun s => SeqSound s.seq) h fun hd => seqSound_leaveInit h hd.1
  | shiftTimerExpiry w =>
    exact whenDue_keeps (fun s => SeqSound s.seq) h fun _ => seqSound_expireShift
  | spinDownLimitExpiry w =>
    exact whenDue_keeps (fun s => SeqSound s.seq) h fun hd =>
      seqSound_enterRelease _ h (by simp [hd.1])
  | releaseTimerExpiry w =>
    exact whenDue_keeps (fun s => SeqSound s.seq) h fun _ =>
      seqSound_closeRequest_transition _ _ (by decide) (by decide)
  | engage w p => exact seqSound_modeRequest h (seqSound_decideEngage p h)
  | roll w p => exact seqSound_modeRequest h (seqSound_decideRoll h)
  | stopRoll w p => exact seqSound_modeRequest h (seqSound_decideStopRoll h)
  | disengage w p => exact seqSound_modeRequest h (seqSound_decideDisengage p h)
  | _ => rw [(sameBut_effectOf _ s hc).seq (by simp [touches, writtenUnits])]; exact h

end ModeRecord

theorem seqSound_reset : SeqSound resetSeq := by
  simp [resetSeq, SeqSound, ptoShiftFor, pumpReadyFor, requestFits]

/-- At the end of the load SEQ's record has the start-up wait, and is otherwise as it was. -/
theorem seq_loadEnd (lines : Levels) (s : State) :
    (loadEnd lines s).seq = { s.seq with
      startWait := some (startTimer s (loadedConfig s.cfg.image).timing.debounce) } := by
  have h : ∀ x, (placeTable x).seq = x.seq := fun x => seq_of_besideLkt (besideLkt_placeTable x)
  rw [loadEnd, h]
  simp only [startScan_seq, startPwm_seq, startGate_seq, startInputs, loadRecords, loadConfig]
  split <;> rfl

/-- Settles O4. -/
theorem stepKeepsTheModeRecordSound : Obligations.StepKeepsTheModeRecordSound := by
  unfold Obligations.StepKeepsTheModeRecordSound
  intro s t hs h
  refine step_keeps_sorted (fun s => SeqSound s.seq) (fun _ _ h => h) (fun dt s h => ?_)
    (fun g rest s h _ _ => seqSound_deliver g h) (fun _ _ _ _ _ => seqSound_reset)
    (fun _ _ h => h) (fun lines s _ h => ?_) (fun c s hc h => seqSound_effectOf c hc h) hs h
  · rw [advance_seq]; exact h
  · rw [seq_loadEnd]
    exact h

end Sys2Proof.Machine
end

section
/-! Until the start-up load ends the units stand at their reset values; GOV's record stays sound. -/

namespace Sys2Proof.Machine

/-! ### Before the end of the start-up load -/

/-- Before the end of the load a command changes the links alone, unless it starts the part. -/
theorem effectOf_not_running {c : Instr} {s : State} (hc : startsPart c = false)
    (hs : s.phase ≠ .running) : ∃ links, effectOf c s = { s with links := links } := by
  cases c with
  | supplyStart | resetLine | resetLineRelease | startUpLoadEnd => cases hc
  | selectFall w p =>
    simp only [effectOf, hs, if_false]
    exact ⟨_, rfl⟩
  | selectRise w p part => exact ⟨_, rfl⟩
  | answerCompletion w p => exact ⟨_, rfl⟩
  | wordCompletion w p word => exact ⟨_, rfl⟩
  | _ => exact ⟨s.links, by simp only [effectOf, whenRunning_not _ hs]⟩

theorem phase_deliver (h : Handover) (s : State) : (deliver h s).phase = s.phase :=
  (sameBut_deliver h s).phase

theorem phase_loadEnd (lines : Levels) (s : State) : (loadEnd lines s).phase = .running := by
  have h : ∀ x, (placeTable x).phase = x.phase := fun x =>
    (SameBut.of_besideLkt (besideLkt_placeTable x)).phase
  rw [loadEnd, h]
  simp only [startScan_phase, startPwm_phase, startGate_phase, startInputs, loadRecords, loadConfig]
  split <;> rfl

theorem HeldSound.of_running {s : State} (h : s.phase = .running) : HeldSound s :=
  fun hn => absurd h hn

theorem HeldSound.hand {s : State} (h : HeldSound s) (hs : s.phase ≠ .running) : s.hand = [] := by
  obtain ⟨-, -, -, -, -, -, -, -, -, hhand, -⟩ := h hs
  exact hhand

/-- Hand-overs are under way only once the part runs. -/
theorem HeldSound.running_of_mem {s : State} {g : Handover} (h : HeldSound s) (hg : g ∈ s.hand) :
    s.phase = .running := by
  by_contra hs
  rw [h.hand hs] at hg
  cases hg

theorem heldSound_advance (dt : Nat) {s : State} (h : HeldSound s) : HeldSound (advance dt s) := by
  intro hs
  rw [advance_phase] at hs
  obtain ⟨hseq, hlkt, hgov, htnk, hspd, hcnv, hlio, hwork, hbusy, hhand, htime⟩ := h hs
  simp only [advance_seq, advance_lkt, advance_gov, advance_tnk, advance_spd, advance_cnv,
    advance_lio, advance_cfg, advance_hand, advance_phase]
  refine ⟨hseq, hlkt, hgov, htnk, hspd, hcnv, hlio, hwork, hbusy, hhand, fun hheld => ?_⟩
  rw [advance, hheld]
  exact htime hheld

theorem heldSound_taken {h : Handover} {s : State} (hs : HeldSound s) (hm : h ∈ s.hand)
    (rest : List Handover) : HeldSound (deliver h { s with hand := rest }) :=
  .of_running ((phase_deliver _ _).trans (hs.running_of_mem hm))

theorem heldSound_resetTo (phase : Phase) (cause : ResetCause) (s : State) :
    HeldSound (resetTo phase cause s) :=
  fun _ => ⟨rfl, rfl, rfl, rfl, rfl, rfl, rfl, rfl, rfl, rfl, fun _ => rfl⟩

theorem heldSound_release {s : State} (h : HeldSound s) (hs : s.phase = .held) :
    HeldSound { s with phase := .loading } := by
  intro _
  obtain ⟨hseq, hlkt, hgov, htnk, hspd, hcnv, hlio, hwork, hbusy, hhand, -⟩ := h (by simp [hs])
  exact ⟨hseq, hlkt, hgov, htnk, hspd, hcnv, hlio, hwork, hbusy, hhand, fun h => by cases h⟩

theorem heldSound_effectOf {c : Instr} {s : State} (hc : startsPart c = false) (h : HeldSound s) :
    HeldSound (effectOf c s) := by
  by_cases hs : s.phase = .running
  · exact .of_running ((sameBut_effectOf c s hc).phase.trans hs)
  · obtain ⟨links, heq⟩ := effectOf_not_running hc hs
    rw [heq]
    exact h

/-- Settles O5. -/
theorem stepKeepsTheUnitsHeldUntilTheLoadEnds :
    Obligations.StepKeepsTheUnitsHeldUntilTheLoadEnds := by
  unfold Obligations.StepKeepsTheUnitsHeldUntilTheLoadEnds
  intro s t hs h
  exact step_keeps_sorted HeldSound (fun _ _ h => h) (fun dt s h => heldSound_advance dt h)
    (fun _ rest _ h hm _ => heldSound_taken h hm rest) (fun _ _ _ _ _ => heldSound_resetTo _ _ _)
    (fun _ hheld h => heldSound_release h hheld)
    (fun _ _ _ _ => .of_running (phase_loadEnd _ _)) (fun _ _ hc h => heldSound_effectOf hc h) hs h

/-- A property that steps keep from states in which the units are held until the load ends. -/
theorem step_keeps_held (P : State → Prop)
    (hqueue : ∀ s rest, P s → P { s with pending := rest })
    (htime : ∀ dt s, P s → P (advance dt s))
    (hhand : ∀ (h : Handover) (s : State), P s → P (deliver h s))
    (hrest : ∀ s rest, P s → P { s with hand := rest })
    (hreset : ∀ phase cause s, phase ≠ .running → P (resetTo phase cause s))
    (hrelease : ∀ s, s.phase = .held → P s → P { s with phase := .loading })
    (hload : ∀ lines s, s.phase = .loading → HeldSound s → P (loadEnd lines s))
    (heffect : ∀ c s, startsPart c = false → P s → P (effectOf c s))
    {s t : State} (hheld : HeldSound s) (hs : P s) (h : step s = .next t) : P t := by
  refine (step_keeps_sorted (fun s => HeldSound s ∧ P s) ?_ ?_ ?_ ?_ ?_ ?_ ?_ ⟨hheld, hs⟩ h).2
  · exact fun s rest h => ⟨h.1, hqueue s rest h.2⟩
  · exact fun dt s h => ⟨heldSound_advance dt h.1, htime dt s h.2⟩
  · exact fun g rest s h hm _ => ⟨heldSound_taken h.1 hm rest, hhand g _ (hrest s rest h.2)⟩
  · exact fun phase cause s hp _ => ⟨heldSound_resetTo _ _ _, hreset phase cause s hp⟩
  · exact fun s hp h => ⟨heldSound_release h.1 hp, hrelease s hp h.2⟩
  · exact fun lines s hp h => ⟨.of_running (phase_loadEnd _ _), hload lines s hp h.1⟩
  · exact fun c s hc h => ⟨heldSound_effectOf hc h.1, heffect c s hc h.2⟩

/-! ### GOV's record -/

section Governor

variable {s : State}

/-- What of a sound governor record a ceiling computed anew does not give again. -/
def GovNear (s : State) : Prop :=
  (pumping s.gov.mode = false → s.gov.d = 0) ∧ -1000 ≤ s.gov.ePrev ∧ s.gov.ePrev ≤ 1000 ∧
  s.lio.throttle.commanded = s.gov.d ∧ s.lio.throttle.inForce ≤ s.gov.d

theorem GovSound.near (h : GovSound s) : GovNear s := by
  obtain ⟨-, hmode, -, hlow, hhigh, hcmd, hforce⟩ := h
  exact ⟨hmode, hlow, hhigh, hcmd, hforce⟩

/-- The record after a new demand. -/
theorem setDemand_gov (d : Nat) (s : State) : (setDemand d s).gov = { s.gov with d := d } := by
  unfold setDemand
  split
  · next h => rw [h]
  · rfl

/-- The line after a new demand: at it, and at no greater duty. -/
theorem setDemand_throttle (d : Nat) (hcmd : s.lio.throttle.commanded = s.gov.d)
    (hforce : s.lio.throttle.inForce ≤ s.gov.d) :
    (setDemand d s).lio.throttle.commanded = d ∧ (setDemand d s).lio.throttle.inForce ≤ d := by
  unfold setDemand
  split
  · next h => exact ⟨hcmd.trans h.symm, h ▸ hforce⟩
  · exact ⟨rfl, Nat.min_le_right _ _⟩

/-- A demand at most C, and 0 where R74 asks it. -/
theorem govSound_setDemand {d : Nat} (hc : d ≤ s.gov.c) (hmode : pumping s.gov.mode = false → d = 0)
    (hblock : holdsBlock s.gov.blocks .throttle = true → d = 0) (h : GovNear s) :
    GovSound (setDemand d s) := by
  obtain ⟨-, hlow, hhigh, hcmd, hforce⟩ := h
  have hline := setDemand_throttle d hcmd hforce
  rw [GovSound, setDemand_gov]
  exact ⟨hc, hmode, hblock, hlow, hhigh, hline.1, hline.2⟩

theorem govSound_applyCeiling (h : GovNear s) : GovSound (applyCeiling s) := by
  unfold applyCeiling
  refine govSound_setDemand (Nat.min_le_right _ _) (fun hm => ?_) (fun hb => ?_) h
  · simp [h.1 hm]
  · simp only at hb
    simp [ceilingFor, hb]

theorem govSound_leaveRamp (x : IntakeWatch) (h : GovNear s) : GovSound (leaveRamp x s) :=
  govSound_applyCeiling h

theorem govSound_watchOff (h : GovNear s) : GovSound (watchOff s) := by
  refine govSound_leaveRamp _ ?_
  split
  · exact h
  · exact h

/-- The watch set anew. -/
theorem setWatch_keeps (P : State → Prop) (h : P s) (hoff : P (watchOff s))
    (hw : P { s with gov := { s.gov with watch := .watching } }) : P (setWatch s) := by
  unfold setWatch
  split
  · exact hw
  all_goals first
    | exact h
    | exact hoff

theorem govSound_setWatch (h : GovSound s) : GovSound (setWatch s) :=
  setWatch_keeps GovSound h (govSound_watchOff h.near) h

theorem govNear_setWatch (h : GovNear s) : GovNear (setWatch s) :=
  setWatch_keeps GovNear h (govSound_watchOff h).near h

/-- A demand of 0 fits every mode. -/
theorem govNear_setDemand_zero (hlow : -1000 ≤ s.gov.ePrev) (hhigh : s.gov.ePrev ≤ 1000)
    (hcmd : s.lio.throttle.commanded = s.gov.d) (hforce : s.lio.throttle.inForce ≤ s.gov.d) :
    GovNear (setDemand 0 s) := by
  have hline := setDemand_throttle 0 hcmd hforce
  rw [GovNear, setDemand_gov]
  exact ⟨fun _ => rfl, hlow, hhigh, hline.1, hline.2⟩

theorem clampInt_le {lo hi x : Int} (h : lo ≤ hi) : clampInt lo hi x ≤ hi := by
  unfold clampInt; split <;> try split
  all_goals omega

theorem le_clampInt {lo hi x : Int} (h : lo ≤ hi) : lo ≤ clampInt lo hi x := by
  unfold clampInt; split <;> try split
  all_goals omega

theorem governorError_bounds (s : State) (pd : Int) :
    -1000 ≤ governorError s pd ∧ governorError s pd ≤ 1000 :=
  ⟨le_clampInt (by decide), clampInt_le (by decide)⟩

theorem govSound_governorUpdate (pd : Int) (hm : pumping s.gov.mode = true) (h : GovNear s) :
    GovSound (governorUpdate pd s) := by
  obtain ⟨-, -, -, hcmd, hforce⟩ := h
  have hramp : ∃ n, rampIntake s = { s with gov := { s.gov with cIntake := n } } := by
    unfold rampIntake
    split
    · exact ⟨_, rfl⟩
    · exact ⟨s.gov.cIntake, rfl⟩
  obtain ⟨n, hramp⟩ := hramp
  unfold governorUpdate
  rw [hramp]
  dsimp only
  have he := governorError_bounds { s with gov := { s.gov with cIntake := n } } pd
  have hle : ∀ (c : Nat) (x : Int), (clampInt 0 c x).toNat ≤ c := fun c x => by
    have := clampInt_le (x := x) (Int.natCast_nonneg c); omega
  refine govSound_setDemand (hle _ _) (fun hn => ?_) (fun hb => ?_)
    ⟨fun hn => ?_, he.1, he.2, hcmd, hforce⟩
  · exact absurd (hm.symm.trans hn) (by decide)
  · have hzero : ceilingFor (conf { s with gov := { s.gov with cIntake := n } }).gains.ceiling n
        s.gov.blocks = 0 := by
      simp only at hb
      simp [ceilingFor, hb]
    rw [hzero]
    exact Nat.le_zero.mp (hle 0 _)
  · exact absurd (hm.symm.trans hn) (by decide)

theorem zero_in_bounds : (-1000 : Int) ≤ 0 ∧ (0 : Int) ≤ 1000 := by decide

theorem govSound_fallbackCheck (faulted : Bool) (h : GovSound s) :
    GovSound (fallbackCheck faulted s) := by
  obtain ⟨hc, hmode, hblock, -, -, hcmd, hforce⟩ := id h
  rw [fallbackCheck_eq]
  split
  · exact ⟨hc, hmode, hblock, zero_in_bounds.1, zero_in_bounds.2, hcmd, hforce⟩
  · exact h

theorem fallbackCheck_mode (faulted : Bool) (s : State) :
    (fallbackCheck faulted s).gov.mode = s.gov.mode := by
  rw [fallbackCheck_eq]
  split <;> rfl

theorem govSound_govTakesDischarge (v : Int) (faulted : Bool) (h : GovSound s) :
    GovSound (govTakesDischarge v faulted s) := by
  unfold govTakesDischarge
  split
  · next hm =>
    exact govSound_governorUpdate v (by rw [fallbackCheck_mode]; exact hm)
      (govSound_fallbackCheck faulted h).near
  · exact govSound_fallbackCheck faulted h

theorem govSound_govTakesIntake (v : Int) (faulted : Bool) (h : GovSound s) :
    GovSound (govTakesIntake v faulted s) := by
  have hramp : ∀ x subject, GovSound (leaveRamp x (postGovernor subject v
      { s with gov := { s.gov with lastIntake := v } })) := fun x _ =>
    govSound_leaveRamp x h.near
  unfold govTakesIntake
  dsimp only
  split
  · exact h
  · split
    · exact hramp _ _
    split
    · exact h
    · exact h
  · split
    · exact hramp _ _
    split
    · exact h
    · exact hramp _ _
  · split
    · exact h
    split
    · exact h
    · exact h

theorem govSound_govTakesMode (m : Mode) (h : GovSound s) : GovSound (govTakesMode m s) := by
  obtain ⟨hc, hmode, hblock, hlow, hhigh, hcmd, hforce⟩ := h
  unfold govTakesMode
  dsimp only
  split
  · exact govSound_applyCeiling
      (govNear_setWatch (govNear_setDemand_zero zero_in_bounds.1 zero_in_bounds.2 hcmd hforce))
  · split
    · exact govSound_watchOff (govNear_setDemand_zero zero_in_bounds.1 zero_in_bounds.2 hcmd hforce)
    · next hp =>
      refine ⟨hc, fun hn => hmode ?_, hblock, hlow, hhigh, hcmd, hforce⟩
      simp only at hn
      simpa [hn] using hp

theorem govSound_govTakesBlocks (b : BlockSet) (h : GovSound s) :
    GovSound (govTakesBlocks b s) := by
  obtain ⟨hc, hmode, hblock, hlow, hhigh, hcmd, hforce⟩ := h
  unfold govTakesBlocks
  dsimp only
  split
  · next hb => exact ⟨hc, hmode, fun hn => hblock (hb ▸ hn), hlow, hhigh, hcmd, hforce⟩
  · exact govSound_applyCeiling ⟨hmode, hlow, hhigh, hcmd, hforce⟩

theorem govSound_govTakesCeiling (h : GovSound s) : GovSound (govTakesCeiling s) := by
  refine govSound_applyCeiling ?_
  split
  · exact h.near
  · exact h.near

/-- GOV's record and its line stand. -/
theorem GovSound.of_eq {t : State} (h : GovSound s) (hg : t.gov = s.gov)
    (ht : t.lio.throttle = s.lio.throttle) : GovSound t := by
  rw [GovSound, hg, ht]
  exact h

theorem GovSound.of_sameBut {us : List UnitName} {t : State} (h : GovSound s) (ht : SameBut us s t)
    (hn : .gov ∉ us) : GovSound t :=
  h.of_eq (ht.gov hn) (ht.throttle hn)

theorem govSound_deliver (g : Handover) (h : GovSound s) : GovSound (deliver g s) := by
  cases g with
  | blocksToGov b => exact govSound_govTakesBlocks b h
  | modeToGov m => exact govSound_govTakesMode m h
  | dischargeToGov v faulted => exact govSound_govTakesDischarge v faulted h
  | intakeToGov v faulted => exact govSound_govTakesIntake v faulted h
  | supplyToGov x => exact govSound_setWatch h
  | _ => exact h.of_sameBut (sameBut_deliver _ s) (by simp [path])

theorem govSound_applyWrite (c : WorkingConfig) (h : GovSound s) : GovSound (applyWrite c s) := by
  have hite : ∀ {p : Prop} [Decidable p] {us : List UnitName} {f : State → State} {x : State},
      (∀ x, SameBut us x (f x)) → .gov ∉ us → GovSound x → GovSound (if p then x else f x) := by
    intro p _ us f x hf hn hx
    split
    · exact hx
    · exact hx.of_sameBut (hf x) hn
  unfold applyWrite
  dsimp only
  refine hite sameBut_freeLostLock (by decide) (hite sameBut_spdTakesMove (by decide)
    (hite sameBut_spdTakesInterval (by decide)
      (hite (fun x => .of_besideTnk (besideTnk_tnkTakesFull x)) (by decide) ?_)))
  split
  · exact h
  · exact govSound_govTakesCeiling h

/-- What a WRITE_CONFIG does to the units: nothing beside CFG, or one write of a configuration. -/
theorem writeThrough_keeps (P : State → Prop) (c : WorkingConfig) (h : P s)
    (hw : P (applyWrite c s)) : P (writeThrough c s) := by
  unfold writeThrough
  split
  · exact h
  · exact hw

/-- A configuration that a WRITE_CONFIG may give of `c` (R157, R158). -/
def WrittenFrom (c c' : WorkingConfig) : Prop :=
  (∃ item part ws, c' = (tunedBy c item part ws).1) ∨
  (∃ item part ws, structuredBy c item part ws = some c') ∨
  ∃ item parts, completedBy c item parts = some c'

theorem decideWriteConfig_keeps (P : State → Prop) (p : Port) (args : List Word) (h : P s)
    (hcfg : ∀ s u, P s → P { s with cfg := { s.cfg with staging := u } })
    (hwrite : ∀ c s, WrittenFrom (conf s) c → P s → P (applyWrite c s)) :
    P (decideWriteConfig p args s).1 := by
  have hthrough : ∀ c x, WrittenFrom (conf x) c → P x → P (writeThrough c x) := fun c x hc hx =>
    writeThrough_keeps P c hx (hwrite c x hc hx)
  have hrefuse : ∀ item r, P (refuseWrite p item r s).1 := by
    intro item r
    unfold refuseWrite refuse
    dsimp only
    split
    · exact hcfg s _ h
    · exact h
  have hstage : ∀ item part ws, P (stagePart p item part ws s).1 := by
    intro item part ws
    unfold stagePart refuse
    dsimp only
    split
    · exact hcfg s _ h
    split
    · split
      · exact hcfg s _ h
      split
      · exact hcfg s _ h
      · next c hc => exact hthrough c _ (.inr (.inr ⟨_, _, hc⟩)) (hcfg s _ h)
    · exact hcfg s _ h
  unfold decideWriteConfig
  dsimp only
  split
  · exact hrefuse _ _
  split
  · exact hrefuse _ _
  split
  · split
    · exact h
    · exact hthrough _ _ (.inl ⟨_, _, _, rfl⟩) h
  split
  · split
    · exact hrefuse _ _
    split
    · exact hrefuse _ _
    · exact hstage _ _ _
  · split
    · exact h
    next c hc =>
    split
    · exact h
    · exact hthrough c _ (.inr (.inl ⟨_, _, _, hc⟩)) h

theorem govSound_setGoverning (x : Option GoverningMode) (sp sn : Nat) (h : GovSound s) :
    GovSound (applyGovernor x sp sn s) := by
  obtain ⟨hc, hmode, hblock, hlow, hhigh, hcmd, hforce⟩ := id h
  unfold applyGovernor setGoverning
  cases x with
  | none => exact h
  | some m =>
    dsimp only
    split
    · exact h
    · exact ⟨hc, hmode, hblock, zero_in_bounds.1, zero_in_bounds.2, hcmd, hforce⟩

theorem govSound_decideSetGovernor (p : Port) (args : List Word) (h : GovSound s) :
    GovSound (decideSetGovernor p args s).1 := by
  unfold decideSetGovernor
  split
  · exact h
  split
  · exact h
  split
  · exact h
  · exact govSound_setGoverning _ _ _ h

/-- A request's step keeps what its decision and the answer keep. -/
theorem request_keeps (P : State → Prop) {p : Port} {kind : RequestKind}
    {decide_ : List Word → State → State × Result × List Word} (hs : P s)
    (hlink : ∀ s x, P s → P { s with links := x }) (hd : ∀ args, P (decide_ args s).1) :
    P (whenRunning (serve p kind decide_) s) :=
  whenRunning_keeps P _ hs fun _ => serve_keeps P hs fun args _ => hlink _ _ (hd args)

theorem govSound_effectOf (c : Instr) (hc : startsPart c = false) (h : GovSound s) :
    GovSound (effectOf c s) := by
  cases c with
  | supplyStart | resetLine | resetLineRelease | startUpLoadEnd => cases hc
  | throttlePwmPeriodStart w =>
    refine whenRunning_keeps GovSound _ h fun _ => ?_
    obtain ⟨hc, hmode, hblock, hlow, hhigh, hcmd, -⟩ := id h
    split
    · exact h
    split
    · exact ⟨hc, hmode, hblock, hlow, hhigh, hcmd, hcmd.le⟩
    · exact h
  | setGovernor w p =>
    exact request_keeps GovSound h (fun _ _ h => h) fun args => govSound_decideSetGovernor p args h
  | writeConfig w p =>
    exact request_keeps GovSound h (fun _ _ h => h) fun args =>
      decideWriteConfig_keeps GovSound p args h (fun _ _ h => h) fun c _ _ h =>
        govSound_applyWrite c h
  | _ => exact h.of_sameBut (sameBut_effectOf _ s hc) (by simp [touches])

end Governor

/-- At the end of the load GOV's record has the configuration's values (R70, R101). -/
theorem gov_loadEnd (lines : Levels) (s : State) :
    (loadEnd lines s).gov = { s.gov with
      sp := (loadedConfig s.cfg.image).govDefaults.pressure
      sn := (loadedConfig s.cfg.image).govDefaults.speed
      cIntake := (loadedConfig s.cfg.image).gains.ceiling
      c := (loadedConfig s.cfg.image).gains.ceiling
      supply := (loadedConfig s.cfg.image).fillItems.supplyDefault } := by
  have h : ∀ x, (placeTable x).gov = x.gov := fun x => gov_of_besideLkt (besideLkt_placeTable x)
  rw [loadEnd, h]
  simp only [startScan_gov, startPwm_gov, startGate_gov, startInputs, loadRecords, loadConfig]
  split <;> rfl

/-- At the end of the load the PWM period starts with the duty commanded before. -/
theorem throttle_loadEnd (lines : Levels) (s : State) :
    (loadEnd lines s).lio.throttle =
      ⟨s.lio.throttle.commanded, s.lio.throttle.commanded, some s.usCount⟩ := by
  have h : ∀ x, (placeTable x).lio = x.lio := fun x => lio_of_besideLkt (besideLkt_placeTable x)
  rw [loadEnd, h]
  simp only [startScan_lio, startPwm, startGate, startInputs, loadRecords, loadConfig]
  split <;> rfl

theorem govSound_loadEnd (lines : Levels) {s : State} (hs : s.phase ≠ .running) (h : HeldSound s) :
    GovSound (loadEnd lines s) := by
  obtain ⟨-, -, hgov, -, -, -, hlio, -⟩ := h hs
  rw [GovSound, gov_loadEnd, throttle_loadEnd, hgov, hlio]
  simp [resetGov, resetLio]

theorem govSound_resetTo (phase : Phase) (cause : ResetCause) (s : State) :
    GovSound (resetTo phase cause s) := by
  simp [resetTo, freshState, resetGov, resetLio, GovSound]

/-- Settles O6. -/
theorem stepKeepsTheDemandUnderItsCeiling : Obligations.StepKeepsTheDemandUnderItsCeiling := by
  unfold Obligations.StepKeepsTheDemandUnderItsCeiling
  intro s t hheld hs h
  exact step_keeps_held GovSound (fun _ _ h => h)
    (fun dt s h => h.of_eq (advance_gov dt s) (by rw [advance_lio]))
    (fun g s h => govSound_deliver g h) (fun _ _ h => h) (fun _ _ _ _ => govSound_resetTo _ _ _)
    (fun _ _ h => h) (fun lines s hp hh => govSound_loadEnd lines (by simp [hp]) hh)
    (fun c s hc h => govSound_effectOf c hc h) hheld hs h

end Sys2Proof.Machine
end

section
/-! The valves and the fill, the speed record, the channels and the notice queues stay sound. -/

namespace Sys2Proof.Machine

/-! ### TNK -/

section Tank

variable {s : State}

/-- TNK's record stands and so does tank 0's FULL. -/
theorem TnkSound.of_eq {t : State} (h : TnkSound s) (ht : t.tnk = s.tnk)
    (hf : (conf t).tank0.full = (conf s).tank0.full) : TnkSound t := by
  unfold TnkSound FillSound
  rw [ht, hf]
  exact h

theorem conf_of_cfg {t : State} (h : t.cfg = s.cfg) : conf t = conf s := by rw [conf, conf, h]

theorem TnkSound.of_sameBut {us : List UnitName} {t : State} (h : TnkSound s) (ht : SameBut us s t)
    (hn : .tnk ∉ us) (hc : .cfg ∉ us) : TnkSound t :=
  h.of_eq (ht.tnk hn) (by rw [conf_of_cfg (ht.cfg hc)])

/-- With no fill left, only the tank valve is to be sound. -/
theorem tnkSound_endFill (why : FillEnding) (stopper : Nat)
    (hv : s.tnk.tankValve = tankValveFor s.tnk.supply s.tnk.mode s.tnk.blocks)
    (hf : s.tnk.fillValve = s.tnk.fill.isSome) : TnkSound (endFill why stopper s) := by
  unfold endFill
  split
  · next hn => exact ⟨hv, hf, fun f hm => by rw [hn] at hm; cases hm⟩
  · exact ⟨hv, rfl, fun f hm => by cases hm⟩

/-- The suspension follows the supply and the mode; the rest of the fill is to be sound before. -/
theorem tnkSound_suspendStall
    (hv : s.tnk.tankValve = tankValveFor s.tnk.supply s.tnk.mode s.tnk.blocks)
    (hf : s.tnk.fillValve = s.tnk.fill.isSome)
    (hfill : ∀ f ∈ s.tnk.fill, (s.tnk.mode = .parked ∨ s.tnk.mode = .pump) ∧
      f.target ≤ (conf s).tank0.full ∧ f.stall.isSome = !f.suspended) :
    TnkSound (suspendStall s) := by
  unfold suspendStall
  split
  · next hn => exact ⟨hv, hf, fun f hm => by rw [hn] at hm; cases hm⟩
  · next f hfs =>
    obtain ⟨hm, ht, hst⟩ := hfill f hfs
    split
    · next hsus hnew =>
      refine ⟨hv, by rw [hf, hfs]; rfl, fun g hg => ?_⟩
      cases hg
      exact ⟨hm, ht, hnew.symm, rfl⟩
    · next hsus hnew =>
      refine ⟨hv, by rw [hf, hfs]; rfl, fun g hg => ?_⟩
      cases hg
      exact ⟨hm, ht, hnew.symm, rfl⟩
    all_goals
      next hsus hnew =>
      refine ⟨hv, hf, fun g hg => ?_⟩
      cases hfs.symm.trans hg
      exact ⟨hm, ht, hsus.trans hnew.symm, hst⟩

theorem tnkSound_stallCheck (h : TnkSound s) : TnkSound (stallCheck s) := by
  obtain ⟨hv, hf, hfill⟩ := id h
  unfold stallCheck
  split
  · exact h
  · next f hfs =>
    obtain ⟨hm, ht, hsus, -⟩ := hfill f hfs
    split
    · next hd =>
      simp only [Bool.and_eq_true, Bool.not_eq_true'] at hd
      refine ⟨hv, by rw [hf, hfs]; rfl, fun g hg => ?_⟩
      cases hg
      exact ⟨hm, ht, hsus, by simp [restartStall, hd.1]⟩
    · exact h

theorem tnkSound_checkFill (h : TnkSound s) : TnkSound (checkFill s) := by
  obtain ⟨hv, hf, -⟩ := id h
  unfold checkFill
  split
  · exact h
  split
  · exact tnkSound_endFill _ _ hv hf
  split
  · exact tnkSound_endFill _ _ hv hf
  split
  · exact tnkSound_endFill _ _ hv hf
  · exact tnkSound_stallCheck h

theorem tnkSound_handTank (n : Nat) (a b : Source) (l : Option Int) (old new : Tank)
    (h : TnkSound s) : TnkSound (handTank n a b l old new s) := by
  unfold handTank
  dsimp only
  split <;> split <;> exact h

theorem tnkSound_checkGaugesIf (l : Option Int) (h : TnkSound s) :
    TnkSound (checkGaugesIf l s) := by
  rw [checkGaugesIf_eq]
  exact h

theorem tnkSound_recomputeTank0 (h : TnkSound s) : TnkSound (recomputeTank0 s) :=
  tnkSound_checkFill (tnkSound_handTank _ _ _ _ _ _ (tnkSound_checkGaugesIf _ h))

theorem tnkSound_tnkTakesLevel (n : Nat) (v : Int) (faulted : Bool) (h : TnkSound s) :
    TnkSound (tnkTakesLevel n v faulted s) := by
  unfold tnkTakesLevel
  dsimp only
  split
  · exact tnkSound_recomputeTank0 h
  · exact tnkSound_recomputeTank0 h
  · exact tnkSound_recomputeTank0 h
  · exact tnkSound_handTank _ _ _ _ _ _ h
  · exact h

theorem tnkSound_tnkTakesMode (m : Mode) (h : TnkSound s) : TnkSound (tnkTakesMode m s) := by
  obtain ⟨-, hf, hfill⟩ := h
  unfold tnkTakesMode
  dsimp only
  split
  · next hm =>
    refine tnkSound_suspendStall rfl hf fun f hfs => ?_
    obtain ⟨-, ht, -, hst⟩ := hfill f hfs
    exact ⟨hm, ht, hst⟩
  · exact tnkSound_endFill _ _ rfl hf

theorem tnkSound_tnkTakesBlocks (b : BlockSet) (h : TnkSound s) :
    TnkSound (tnkTakesBlocks b s) := by
  obtain ⟨-, hf, hfill⟩ := h
  unfold tnkTakesBlocks
  dsimp only
  split
  · exact tnkSound_endFill _ _ rfl hf
  · exact ⟨rfl, hf, hfill⟩

theorem tnkSound_changeSupply (x : Supply) (h : TnkSound s) : TnkSound (changeSupply x s) := by
  obtain ⟨-, hf, hfill⟩ := id h
  unfold changeSupply
  split
  · exact h
  · exact tnkSound_suspendStall (s := commandTankValve { s with tnk := { s.tnk with supply := x } })
      rfl hf fun f hfs =>
        let ⟨hm, ht, _, hst⟩ := hfill f hfs
        ⟨hm, ht, hst⟩

theorem tnkSound_deliver (g : Handover) (h : TnkSound s) : TnkSound (deliver g s) := by
  cases g with
  | blocksToTnk b => exact tnkSound_tnkTakesBlocks b h
  | modeToTnk m => exact tnkSound_tnkTakesMode m h
  | levelToTnk n v faulted => exact tnkSound_tnkTakesLevel n v faulted h
  | _ => exact h.of_sameBut (sameBut_deliver _ s) (by simp [path]) (by simp [path])

theorem tnkSound_decideFillStart (p : Port) (args : List Word) (h : TnkSound s) :
    TnkSound (decideFillStart p args s).1 := by
  unfold decideFillStart
  dsimp only
  split
  · exact h
  split
  · exact h
  split
  · exact h
  split
  · exact h
  next hm =>
  split
  · exact h
  split
  · exact h
  · refine ⟨h.1, rfl, fun g hg => ?_⟩
    cases hg
    have hm : s.tnk.mode = .parked ∨ s.tnk.mode = .pump := by
      by_contra hn
      exact hm (not_or.mp hn)
    refine ⟨hm, Nat.min_le_right _ _, rfl, ?_⟩
    simp only [newFill]
    split
    · next hs => simp [hs]
    · next hs => simp [hs]

/-! ### Writes of the working configuration -/

theorem cfg_applyWrite (c : WorkingConfig) (s : State) :
    (applyWrite c s).cfg = { s.cfg with working := some c } := by
  have hite : ∀ {p : Prop} [Decidable p] {us : List UnitName} {f : State → State} {x : State},
      (∀ x, SameBut us x (f x)) → .cfg ∉ us → (if p then x else f x).cfg = x.cfg := by
    intro p _ us f x hf hn
    split
    · rfl
    · exact (hf x).cfg hn
  unfold applyWrite
  dsimp only
  rw [hite sameBut_freeLostLock (by decide), hite sameBut_spdTakesMove (by decide),
    hite sameBut_spdTakesInterval (by decide),
    hite (fun x => .of_besideTnk (besideTnk_tnkTakesFull x)) (by decide),
    hite (fun x => .of_besideGov (besideGov_govTakesCeiling x)) (by decide)]

theorem conf_applyWrite (c : WorkingConfig) (s : State) : conf (applyWrite c s) = c := by
  rw [conf, cfg_applyWrite]
  rfl

/-- The configuration of a row written anew. -/
theorem working_rewriteRow (i : Nat) (r : RowRecord) (s : State) :
    (rewriteRow i r s).cfg =
      { s.cfg with
        working := s.cfg.working.map (fun c => { c with rows := replaceAt c.rows (i - 12) r }) } :=
  (SameBut.of_besideLkt (besideLkt_handleRows _ _)).cfg (by decide)

theorem tnk_rewriteRow (i : Nat) (r : RowRecord) (s : State) : (rewriteRow i r s).tnk = s.tnk :=
  (SameBut.of_besideLkt (besideLkt_handleRows _ _)).tnk (by decide)

theorem rewriteRow_tank0 (i : Nat) (r : RowRecord) (s : State) :
    (conf (rewriteRow i r s)).tank0 = (conf s).tank0 := by
  rw [conf, working_rewriteRow, conf]
  cases s.cfg.working <;> rfl

/-- The working configuration that a command leaves: as it was, but for WRITE_ROW and
WRITE_CONFIG. -/
theorem working_effectOf {c : Instr} (hc : startsPart c = false)
    (hr : ∀ w p, c ≠ .writeRow w p) (hw : ∀ w p, c ≠ .writeConfig w p) :
    (effectOf c s).cfg.working = s.cfg.working := by
  cases c with
  | supplyStart | resetLine | resetLineRelease | startUpLoadEnd => cases hc
  | writeRow w p => exact absurd rfl (hr w p)
  | writeConfig w p => exact absurd rfl (hw w p)
  | storeConfig w p =>
    refine request_keeps (fun t => t.cfg.working = s.cfg.working) rfl (fun _ _ h => h)
      fun args => ?_
    unfold decideStoreConfig
    split
    · rfl
    split <;> rfl
  | storeEnd w flaws =>
    refine whenDue_keeps (fun t => t.cfg.working = s.cfg.working) rfl fun _ => ?_
    unfold finishStore
    dsimp only
    split <;> rfl
  | _ => rw [(sameBut_effectOf _ s hc).cfg (by simp [touches])]

theorem tnkSound_tnkTakesFull
    (hv : s.tnk.tankValve = tankValveFor s.tnk.supply s.tnk.mode s.tnk.blocks)
    (hf : s.tnk.fillValve = s.tnk.fill.isSome)
    (hfill : ∀ f ∈ s.tnk.fill, (s.tnk.mode = .parked ∨ s.tnk.mode = .pump) ∧
      f.suspended = stallSuspended s.tnk.supply s.tnk.mode ∧ f.stall.isSome = !f.suspended) :
    TnkSound (tnkTakesFull s) := by
  unfold tnkTakesFull
  split
  · next hn => exact ⟨hv, hf, fun f hm => by rw [hn] at hm; cases hm⟩
  · next f hfs =>
    obtain ⟨hm, hsus, hst⟩ := hfill f hfs
    refine ⟨hv, by rw [hf, hfs]; rfl, fun g hg => ?_⟩
    cases hg
    exact ⟨hm, Nat.min_le_right _ _, hsus, hst⟩

theorem tnkSound_applyWrite (c : WorkingConfig) (h : TnkSound s) : TnkSound (applyWrite c s) := by
  obtain ⟨hv, hf, hfill⟩ := id h
  have hite : ∀ {p : Prop} [Decidable p] {us : List UnitName} {f : State → State} {x : State},
      (∀ x, SameBut us x (f x)) → .tnk ∉ us → .cfg ∉ us → TnkSound x →
        TnkSound (if p then x else f x) := by
    intro p _ us f x hf hn hc hx
    split
    · exact hx
    · exact hx.of_sameBut (hf x) hn hc
  unfold applyWrite
  dsimp only
  refine hite sameBut_freeLostLock (by decide) (by decide)
    (hite sameBut_spdTakesMove (by decide) (by decide)
      (hite sameBut_spdTakesInterval (by decide) (by decide) ?_))
  have hgov : SameBut [.gov] { s with cfg := { s.cfg with working := some c } }
      (if c.gains.ceiling = (conf s).gains.ceiling then
        { s with cfg := { s.cfg with working := some c } }
      else govTakesCeiling { s with cfg := { s.cfg with working := some c } }) :=
    sameBut_ite (.refl _ _) fun x => .of_besideGov (besideGov_govTakesCeiling x)
  have htnk := hgov.tnk (by decide)
  split
  · next hfull =>
    exact h.of_eq htnk (by rw [conf_of_cfg (hgov.cfg (by decide))]; exact hfull)
  · refine tnkSound_tnkTakesFull (by rw [htnk]; exact hv) (by rw [htnk]; exact hf) ?_
    rw [htnk]
    intro f hfs
    obtain ⟨hm, -, hsus, hst⟩ := hfill f hfs
    exact ⟨hm, hsus, hst⟩

theorem tnkSound_effectOf (c : Instr) (hc : startsPart c = false) (h : TnkSound s) :
    TnkSound (effectOf c s) := by
  have hworking : ∀ {t : State}, t.tnk = s.tnk → t.cfg.working = s.cfg.working → TnkSound t :=
    fun ht hw => h.of_eq ht (by rw [conf, conf, hw])
  have hlinks : ∀ (s : State) x, TnkSound s → TnkSound { s with links := x } := fun _ _ h => h
  cases c with
  | supplyStart | resetLine | resetLineRelease | startUpLoadEnd => cases hc
  | selectSupply w p =>
    refine request_keeps TnkSound h hlinks fun args => ?_
    unfold decideSelectSupply
    split
    · exact h
    split
    · exact h
    · exact tnkSound_changeSupply _ h
  | fillStart w p =>
    exact request_keeps TnkSound h hlinks fun args => tnkSound_decideFillStart p args h
  | fillStop w p =>
    refine request_keeps TnkSound h hlinks fun args => ?_
    unfold decideFillStop
    split
    · exact h
    · exact tnkSound_endFill _ _ h.1 h.2.1
  | fillTimeoutExpiry w =>
    exact whenDue_keeps TnkSound h fun _ => tnkSound_endFill _ _ h.1 h.2.1
  | stallWindowExpiry w =>
    exact whenDue_keeps TnkSound h fun _ => tnkSound_endFill _ _ h.1 h.2.1
  | writeRow w p =>
    refine request_keeps TnkSound h hlinks fun args => ?_
    rcases decideWriteRow_cases p args s with heq | ⟨r, -, -, -, heq⟩ <;> rw [heq]
    · exact h
    · exact h.of_eq (tnk_rewriteRow _ _ s) (by rw [rewriteRow_tank0])
  | writeConfig w p =>
    exact request_keeps TnkSound h hlinks fun args =>
      decideWriteConfig_keeps TnkSound p args h (fun _ _ h => h) fun c _ _ h =>
        tnkSound_applyWrite c h
  | storeConfig w p =>
    exact hworking ((sameBut_effectOf _ s hc).tnk (by simp [touches]))
      (working_effectOf hc (by simp) (by simp))
  | storeEnd w flaws =>
    exact hworking ((sameBut_effectOf _ s hc).tnk (by simp [touches]))
      (working_effectOf hc (by simp) (by simp))
  | _ => exact h.of_sameBut (sameBut_effectOf _ s hc) (by simp [touches]) (by simp [touches])

end Tank

/-- At the end of the load TNK has the configured supply (R101). -/
theorem tnk_loadEnd (lines : Levels) (s : State) :
    (loadEnd lines s).tnk = { s.tnk with
      supply := (loadedConfig s.cfg.image).fillItems.supplyDefault } := by
  have h : ∀ x, (placeTable x).tnk = x.tnk := fun x => tnk_of_besideLkt (besideLkt_placeTable x)
  rw [loadEnd, h]
  simp only [startScan_tnk, startPwm_tnk, startGate_tnk, startInputs, loadRecords, loadConfig]
  split <;> rfl

/-- Settles O7. -/
theorem stepKeepsValvesAndFillSound : Obligations.StepKeepsValvesAndFillSound := by
  unfold Obligations.StepKeepsValvesAndFillSound
  intro s t hheld hs h
  refine step_keeps_held TnkSound (fun _ _ h => h)
    (fun dt s h => h.of_eq (advance_tnk dt s) (by rw [conf_advance]))
    (fun g s h => tnkSound_deliver g h) (fun _ _ h => h) (fun _ _ _ _ => ?_)
    (fun _ _ h => h) (fun lines s hp hh => ?_)
    (fun c s hc h => tnkSound_effectOf c hc h) hheld hs h
  · exact ⟨by simp [resetTo, freshState, resetTnk, tankValveFor, pumping], rfl,
      fun f hf => by cases hf⟩
  · obtain ⟨-, -, -, htnk, -⟩ := hh (by simp [hp])
    unfold TnkSound
    rw [tnk_loadEnd, htnk]
    exact ⟨by simp [resetTnk, tankValveFor, pumping], rfl, fun f hf => by cases hf⟩

end Sys2Proof.Machine
end

section
/-! The speed record, the channels, the notice queues and the table lock stay sound. -/

namespace Sys2Proof.Machine

/-! ### SPD -/

section Speed

variable {s : State} {u : SpdUnit}

/-- What of a sound speed record the recomputation does not give again. -/
def SpdNear (u : SpdUnit) : Prop :=
  u.staleTimer.isSome = (u.freshness == .fresh) ∧
  (u.freshness = .fresh → u.report.isSome = true) ∧
  u.disTimer.isSome = (u.disagreement == .differing) ∧
  (u.freshness = .stale → u.disagreement = .agree) ∧
  u.measured ≤ 1500 ∧ ∀ r ∈ u.report, r.speed ≤ 1500

theorem SpdSound.near (h : SpdSound u) : SpdNear u := by
  obtain ⟨hstale, hreport, hdis, hagree, -, hmeasured, -, hspeed⟩ := h
  exact ⟨hstale, hreport, hdis, hagree, hmeasured, hspeed⟩

/-- The value and the transmission do not depend on the disagreement. -/
theorem combineSpeed_of_disagreement (u : SpdUnit) (x : Disagreement) (y : Option Timer) :
    combineSpeed { u with disagreement := x, disTimer := y } =
      { combineSpeed u with disagreement := x, disTimer := y } := by
  obtain ⟨report, freshness, _, _, _, _, _, _⟩ := u
  cases freshness <;> cases report <;> rfl

theorem combineSpeed_idem (u : SpdUnit) : combineSpeed (combineSpeed u) = combineSpeed u := by
  obtain ⟨report, freshness, _, _, _, _, _, _⟩ := u
  cases freshness <;> cases report <;> rfl

theorem combineSpeed_value_le (hm : u.measured ≤ 1500) (hr : ∀ r ∈ u.report, r.speed ≤ 1500) :
    (combineSpeed u).value ≤ 1500 := by
  unfold combineSpeed
  split
  · next r _ hreport => exact Nat.max_le.mpr ⟨hr r hreport, hm⟩
  · exact hm
  · exact hm

theorem spdSound_combineSpeed (h : SpdNear u) : SpdSound (combineSpeed u) := by
  obtain ⟨hstale, hreport, hdis, hagree, hmeasured, hspeed⟩ := h
  simp only [SpdSound, combineSpeed_staleTimer, combineSpeed_freshness, combineSpeed_report,
    combineSpeed_disTimer, combineSpeed_disagreement, combineSpeed_measured, combineSpeed_idem]
  exact ⟨hstale, hreport, hdis, hagree, trivial, hmeasured,
    combineSpeed_value_le hmeasured hspeed, hspeed⟩

theorem spdSound_checkDisagreement (tolerance : Nat) (timer : Timer) (h : SpdSound u) :
    SpdSound (checkDisagreement tolerance timer u) := by
  obtain ⟨hstale, hreport, hdis, hagree, hcombine, hmeasured, hvalue, hspeed⟩ := id h
  have hwith : ∀ x y, Option.isSome y = (x == .differing) → u.freshness = .fresh →
      SpdSound { u with disagreement := x, disTimer := y } := fun x y hxy hf =>
    ⟨hstale, hreport, hxy, (fun hs => by cases hf.symm.trans hs),
      by rw [combineSpeed_of_disagreement, hcombine], hmeasured, hvalue, hspeed⟩
  unfold checkDisagreement
  split
  · exact h
  next hf =>
  split
  · split
    · exact hwith _ _ rfl hf
    · exact h
    · exact h
  · exact hwith _ _ rfl hf

theorem spdSound_recomputed (check : Bool) (h : SpdNear u) : SpdSound (recomputed check s u) := by
  unfold recomputed
  split
  · exact spdSound_checkDisagreement _ _ (spdSound_combineSpeed h)
  · exact spdSound_combineSpeed h

theorem spdSound_recomputeSpeed (check : Bool) (h : SpdNear u) :
    SpdSound (recomputeSpeed check u s).spd := by
  rw [recomputeSpeed_eq]
  exact spdSound_recomputed check h

theorem spdNear_staleRecord (h : SpdNear u) : SpdNear (staleRecord u) := by
  obtain ⟨-, -, -, -, hmeasured, hspeed⟩ := h
  exact ⟨rfl, (fun hf => by cases hf), rfl, fun _ => rfl, hmeasured, hspeed⟩

theorem spdSound_becomeStale (h : SpdSound s.spd) : SpdSound (becomeStale s).spd :=
  spdSound_recomputeSpeed _ (spdNear_staleRecord h.near)

/-- The record with a new report, its freshness judged. -/
theorem spdNear_freshened (i : Nat) (p : Port) (now : Count32) {r : SpeedReport} (h : SpdNear u)
    (hr : r.speed ≤ 1500) : SpdNear { freshened i p now u with report := some r } := by
  obtain ⟨hstale, -, hdis, hagree, hmeasured, -⟩ := h
  have hreport : ∀ x ∈ some r, x.speed ≤ 1500 := fun x hx => by cases hx; exact hr
  unfold freshened
  split
  · next hf => exact ⟨by simp [hf], fun _ => rfl, hdis, hagree, hmeasured, hreport⟩
  · split
    · exact ⟨rfl, fun _ => rfl, rfl, fun _ => rfl, hmeasured, hreport⟩
    · exact ⟨hstale, fun _ => rfl, hdis, hagree, hmeasured, hreport⟩
  · exact ⟨hstale, fun _ => rfl, hdis, hagree, hmeasured, hreport⟩

theorem spdSound_decideReportSpeed (p : Port) (args : List Word) (h : SpdSound s.spd) :
    SpdSound (decideReportSpeed p args s).1.spd := by
  rcases decideReportSpeed_cases p args s with heq | ⟨x, engine, heq⟩ <;> rw [heq]
  · exact h
  · exact spdSound_recomputeSpeed _ (spdNear_freshened _ _ _ h.near (Nat.min_le_left _ _))

theorem spdSound_takeGate (count gate : Nat) (h : SpdSound s.spd) :
    SpdSound (takeGate count gate s).spd := by
  obtain ⟨hstale, hreport, hdis, hagree, -, hspeed⟩ := h.near
  exact spdSound_recomputeSpeed _ ⟨hstale, hreport, hdis, hagree, Nat.min_le_left _ _, hspeed⟩

theorem spdSound_becomeDisagree (hd : s.spd.disagreement = .differing) (h : SpdSound s.spd) :
    SpdSound (becomeDisagree s).spd := by
  obtain ⟨hstale, hreport, -, hagree, hmeasured, hspeed⟩ := h.near
  exact spdSound_recomputeSpeed _ ⟨hstale, hreport, rfl,
    (fun hs => by cases (hagree hs).symm.trans hd), hmeasured, hspeed⟩

theorem spdSound_spdTakesInterval (h : SpdSound s.spd) : SpdSound (spdTakesInterval s).spd := by
  obtain ⟨-, hreport, hdis, hagree, hcombine, hmeasured, hvalue, hspeed⟩ := id h
  have hstand : ∀ (u : SpdUnit) (y : Option Timer), combineSpeed u = u →
      combineSpeed { u with staleTimer := y } = { u with staleTimer := y } := by
    intro u y hu
    obtain ⟨report, freshness, _, _, _, _, _, _⟩ := u
    cases freshness <;> cases report <;> simp_all [combineSpeed]
  unfold spdTakesInterval
  split
  · next hf hr =>
    split
    · exact spdSound_becomeStale h
    · exact ⟨by simp [hf], hreport, hdis, hagree, hstand _ _ hcombine, hmeasured, hvalue, hspeed⟩
  · exact h
  · exact h

theorem spdSound_spdTakesMove (h : SpdSound s.spd) : SpdSound (spdTakesMove s).spd := by
  unfold spdTakesMove
  split
  · exact spdSound_becomeStale h
  · exact h

theorem spdSound_applyWrite (c : WorkingConfig) (h : SpdSound s.spd) :
    SpdSound (applyWrite c s).spd := by
  have hite : ∀ {p : Prop} [Decidable p] {f : State → State} {x : State},
      (∀ x, SpdSound x.spd → SpdSound (f x).spd) → SpdSound x.spd →
        SpdSound (if p then x else f x).spd := by
    intro p _ f x hf hx
    split
    · exact hx
    · exact hf x hx
  unfold applyWrite
  dsimp only
  refine hite (fun x hx => ?_) (hite (fun x hx => spdSound_spdTakesMove hx)
    (hite (fun x hx => spdSound_spdTakesInterval hx)
      (hite (fun x hx => ?_) (hite (fun x hx => ?_) h))))
  · rw [(sameBut_freeLostLock x).spd (by decide)]; exact hx
  · rw [(SameBut.of_besideTnk (besideTnk_tnkTakesFull x)).spd (by decide)]; exact hx
  · rw [(SameBut.of_besideGov (besideGov_govTakesCeiling x)).spd (by decide)]; exact hx

theorem spdSound_effectOf (c : Instr) (hc : startsPart c = false) (h : SpdSound s.spd) :
    SpdSound (effectOf c s).spd := by
  cases c with
  | supplyStart | resetLine | resetLineRelease | startUpLoadEnd => cases hc
  | gateEnd w =>
    refine whenRunning_keeps (fun s => SpdSound s.spd) _ h fun _ => ?_
    split
    · exact h
    split
    · exact spdSound_takeGate _ _ h
    · exact h
  | staleTimerExpiry w =>
    exact whenDue_keeps (fun s => SpdSound s.spd) h fun _ => spdSound_becomeStale h
  | disagreementTimerExpiry w =>
    exact whenDue_keeps (fun s => SpdSound s.spd) h fun hd => spdSound_becomeDisagree hd.1 h
  | reportSpeed w p =>
    exact request_keeps (fun s => SpdSound s.spd) h (fun _ _ h => h) fun args =>
      spdSound_decideReportSpeed p args h
  | writeConfig w p =>
    exact request_keeps (fun s => SpdSound s.spd) h (fun _ _ h => h) fun args =>
      decideWriteConfig_keeps (fun s => SpdSound s.spd) p args h (fun _ _ h => h) fun c _ _ h =>
        spdSound_applyWrite c h
  | _ => rw [(sameBut_effectOf _ s hc).spd (by simp [touches])]; exact h

end Speed

/-- The end of the load leaves SPD's record as it was. -/
theorem spd_loadEnd (lines : Levels) (s : State) : (loadEnd lines s).spd = s.spd := by
  have h : ∀ x, (placeTable x).spd = x.spd := fun x =>
    (SameBut.of_besideLkt (besideLkt_placeTable x)).spd (by decide)
  rw [loadEnd, h]
  simp only [startScan_spd, startPwm_spd, startGate_spd, startInputs, loadRecords, loadConfig]
  split <;> rfl

theorem spd_deliver (g : Handover) (s : State) : (deliver g s).spd = s.spd :=
  (sameBut_deliver g s).spd (by cases g <;> simp [path])

/-- Settles O11. -/
theorem stepKeepsTheSpeedRecordSound : Obligations.StepKeepsTheSpeedRecordSound := by
  unfold Obligations.StepKeepsTheSpeedRecordSound
  intro s t hs h
  refine step_keeps_sorted (fun s => SpdSound s.spd) (fun _ _ h => h) (fun dt s h => ?_)
    (fun g rest s h _ _ => ?_) (fun _ _ _ _ _ => ?_) (fun _ _ h => h) (fun lines s _ h => ?_)
    (fun c s hc h => spdSound_effectOf c hc h) hs h
  · rw [advance_spd]; exact h
  · rw [spd_deliver]; exact h
  · simp [resetTo, freshState, resetSpd, SpdSound, combineSpeed]
  · rw [spd_loadEnd]; exact h

/-! ### CNV -/

section Channels

variable {s : State}

theorem clampInt_idem {lo hi : Int} (h : lo ≤ hi) (x : Int) :
    clampInt lo hi (clampInt lo hi x) = clampInt lo hi x := by
  have h1 := clampInt_le (x := x) h
  have h2 := le_clampInt (x := x) h
  generalize clampInt lo hi x = y at *
  unfold clampInt
  split
  · omega
  split
  · omega
  · rfl

/-- The kind range of a channel, as a clamp. -/
theorem kindClamp_eq (n : Nat) :
    ∃ lo hi : Int, lo ≤ hi ∧ ∀ v, kindClamp n v = clampInt lo hi v :=
  match n with
  | 0 => ⟨0, 4000, by decide, fun _ => rfl⟩
  | 1 => ⟨-100, 1500, by decide, fun _ => rfl⟩
  | 2 | 3 | 4 | 5 => ⟨0, 2000, by decide, fun _ => rfl⟩
  | _ + 6 => ⟨0, 4095, by decide, fun _ => rfl⟩

theorem kindClamp_idem (n : Nat) (v : Int) : kindClamp n (kindClamp n v) = kindClamp n v := by
  obtain ⟨lo, hi, h, heq⟩ := kindClamp_eq n
  rw [heq, heq, clampInt_idem h]

/-- R131 to R133: a conversion leaves a channel's record in its kind's range. -/
theorem channelSound_converted (k : Calibration) (n code : Nat) {c : Channel}
    (h : ChannelSound n c) : ChannelSound n (converted k n code c) := by
  obtain ⟨hv, hrun, hgood⟩ := h
  unfold converted
  split
  · split
    · next hf =>
      split
      · next hlt => exact ⟨hv, hlt, fun hg => by simp [hf] at hg⟩
      · exact ⟨kindClamp_idem _ _, Nat.zero_le _, fun _ => rfl⟩
    · exact ⟨kindClamp_idem _ _, hrun, hgood⟩
  · exact ⟨hv, Nat.zero_le _, fun _ => rfl⟩

theorem cnvSound_completeConversion (n : Nat) (rest : List Nat) (code : Nat) (h : CnvSound s) :
    CnvSound (completeConversion n rest code s) := by
  unfold completeConversion
  dsimp only
  split
  · next hn =>
    obtain ⟨hlength, hall⟩ := h
    rw [takeCode_eq _ _ hn]
    refine ⟨by simpa using hlength, fun m hm => ?_⟩
    simp only [channelOf, replaceAt_getD, hlength, hn, and_true]
    split
    · next heq => exact heq ▸ channelSound_converted _ _ _ (hall n hn)
    · exact hall m hm
  · exact h

theorem CnvSound.of_eq {t : State} (h : CnvSound s) (ht : t.cnv.channels = s.cnv.channels) :
    CnvSound t := by
  unfold CnvSound channelOf
  rw [ht]
  exact h

theorem cnvSound_effectOf (c : Instr) (hc : startsPart c = false) (h : CnvSound s) :
    CnvSound (effectOf c s) := by
  cases c with
  | supplyStart | resetLine | resetLineRelease | startUpLoadEnd => cases hc
  | scanPeriodExpiry w => exact whenDue_keeps CnvSound h fun _ => h
  | conversionCompletion w code =>
    refine whenRunning_keeps CnvSound _ h fun _ => ?_
    split
    · exact h
    split
    · exact cnvSound_completeConversion _ _ _ h
    · exact h
  | _ => exact h.of_eq (by rw [(sameBut_effectOf _ s hc).cnv (by simp [touches, writtenUnits])])

end Channels

/-- The end of the load leaves the channel records as they were. -/
theorem channels_loadEnd (lines : Levels) (s : State) :
    (loadEnd lines s).cnv.channels = s.cnv.channels := by
  have h : ∀ x, (placeTable x).cnv = x.cnv := fun x =>
    (SameBut.of_besideLkt (besideLkt_placeTable x)).cnv (by decide)
  rw [loadEnd, h]
  simp only [startScan, startPwm_cnv, startGate_cnv, startInputs, loadRecords, loadConfig]
  split <;> rfl

theorem cnvSound_resetTo (phase : Phase) (cause : ResetCause) (s : State) :
    CnvSound (resetTo phase cause s) := by
  refine ⟨rfl, fun n hn => ?_⟩
  have hall : ∀ n < 8, ChannelSound n (resetCnv.channels.getD n ⟨0, false, false, 0⟩) := by decide
  exact hall n hn

theorem cnv_deliver (g : Handover) (s : State) : (deliver g s).cnv = s.cnv :=
  (sameBut_deliver g s).cnv (by cases g <;> simp [path])

/-- Settles O12. -/
theorem stepKeepsTheChannelsInRange : Obligations.StepKeepsTheChannelsInRange := by
  unfold Obligations.StepKeepsTheChannelsInRange
  intro s t hs h
  exact step_keeps_sorted CnvSound (fun _ _ h => h)
    (fun dt s h => h.of_eq (by rw [advance_cnv]))
    (fun g rest s h _ _ => h.of_eq (by rw [cnv_deliver]))
    (fun _ _ _ _ _ => cnvSound_resetTo _ _ _) (fun _ _ h => h)
    (fun lines s _ h => h.of_eq (channels_loadEnd lines s))
    (fun c s hc h => cnvSound_effectOf c hc h) hs h

/-! ### NTQ -/

section Queues

variable {s : State}

/-- A property of what NTQ holds for a port, for the three. -/
theorem portGet_of_all {α : Type} {m : PerPort α} {P : α → Prop} (h1 : P m.chassis) (h2 : P m.cab)
    (h3 : P m.panel) (p : Port) : P (portGet m p) := by
  cases p
  · exact h1
  · exact h2
  · exact h3

theorem queueSound_enqueue (n : Notice) {q : NtqPort} (h : QueueSound q) :
    QueueSound (enqueue n q) := by
  obtain ⟨hlength, hlost⟩ := h
  rw [enqueue_eq]
  split
  · next hlt => exact ⟨by simpa using hlt, hlost⟩
  · exact ⟨hlength, Nat.min_le_left _ _⟩

theorem ntqSound_placeNotice (n : Notice) (dest : Addressee) (h : NtqSound s) :
    NtqSound (placeNotice n dest s) := by
  intro p
  rw [portGet_placeNotice]
  unfold ntqWith
  split
  · exact queueSound_enqueue n (h p)
  · exact h p

theorem ntqSound_updateNtq (p : Port) {f : NtqPort → NtqPort}
    (hf : QueueSound (f (portGet s.ntq p))) (h : NtqSound s) : NtqSound (updateNtq p f s) := by
  intro q
  by_cases hq : q = p
  · subst hq
    simpa [updateNtq] using hf
  · simpa [updateNtq, portGet_portSet_ne _ hq] using h q

theorem ntqSound_addCauseAll (c : ResetCause) (h : NtqSound s) : NtqSound (addCauseAll c s) := by
  have hc : ∀ q, QueueSound q → QueueSound (addCause c q) := by
    intro q hq
    cases c <;> exact hq
  exact fun p => portGet_of_all (hc _ (h .chassis)) (hc _ (h .cab)) (hc _ (h .panel)) p

theorem NtqSound.of_eq {t : State} (h : NtqSound s) (ht : t.ntq = s.ntq) : NtqSound t := by
  unfold NtqSound
  rw [ht]
  exact h

theorem ntqSound_deliver (g : Handover) (h : NtqSound s) : NtqSound (deliver g s) := by
  cases g with
  | notice sender n dest => exact ntqSound_placeNotice n dest h
  | _ => exact h.of_eq ((sameBut_deliver _ s).ntq (by simp [path]))

theorem ntqSound_leaveInit (h : NtqSound s) : NtqSound (leaveInit s) := by
  have ht : ∀ m, NtqSound (transition m none .start s) := fun m =>
    h.of_eq (ntq_of_besideSeq (besideSeq_transition _ _ _ s))
  unfold leaveInit
  split
  · exact ntqSound_addCauseAll _ (ht _)
  · exact ht _

theorem ntqSound_effectOf (c : Instr) (hc : startsPart c = false) (h : NtqSound s) :
    NtqSound (effectOf c s) := by
  cases c with
  | supplyStart | resetLine | resetLineRelease | startUpLoadEnd => cases hc
  | startUpWaitExpiry w => exact whenDue_keeps NtqSound h fun _ => ntqSound_leaveInit h
  | readNotice w p =>
    refine request_keeps NtqSound h (fun _ _ h => h) fun _ => ntqSound_updateNtq p ?_ h
    obtain ⟨hlength, -⟩ := h p
    exact ⟨by simp; omega, Nat.zero_le _⟩
  | readResetCause w p =>
    exact request_keeps NtqSound h (fun _ _ h => h) fun _ => ntqSound_updateNtq p (h p) h
  | _ => exact h.of_eq ((sameBut_effectOf _ s hc).ntq (by simp [touches, writtenUnits]))

end Queues

theorem ntq_loadEnd (lines : Levels) (s : State) :
    (loadEnd lines s).ntq = (loadConfig s).ntq := by
  have h : ∀ x, (placeTable x).ntq = x.ntq := fun x => ntq_of_besideLkt (besideLkt_placeTable x)
  rw [loadEnd, h]
  rfl

/-- Settles O13. -/
theorem stepKeepsTheQueuesBounded : Obligations.StepKeepsTheQueuesBounded := by
  unfold Obligations.StepKeepsTheQueuesBounded
  intro s t hs h
  refine step_keeps_sorted NtqSound (fun _ _ h => h) (fun dt s h => h.of_eq (advance_ntq dt s))
    (fun g rest s h _ _ => ntqSound_deliver g h) (fun phase cause s _ _ p => ?_) (fun _ _ h => h)
    (fun lines s _ h => ?_) (fun c s hc h => ntqSound_effectOf c hc h) hs h
  · cases p <;> simp [resetTo, freshState, samePorts, resetNtq, portGet, QueueSound]
  · refine NtqSound.of_eq ?_ (ntq_loadEnd lines s)
    unfold loadConfig
    dsimp only
    split
    · exact h
    · exact ntqSound_addCauseAll _ h

end Sys2Proof.Machine
end

section
/-! The links stay sound. -/

namespace Sys2Proof.Machine

section LinkRecords

variable {s : State} {l : Link}

/-- A link outside a frame, or at the start of one. -/
theorem linkSound_cleared {x : LinkState} {prep : Option Preparation} {discard : Bool}
    {outgoing : Option (List Word)} {answer : Option Answer} {frameError selectLow : Bool}
    {wordOut : Word} (hp : x = .preparing → prep.isSome = true) (hi : x = .idle → prep = none)
    (hr : x = .receiving → prep.isSome = true → discard = true)
    (hfits : preparationFits prep = true) :
    LinkSound ⟨x, 0, none, [], discard, outgoing, answer, frameError, prep, selectLow, wordOut⟩ :=
  ⟨hp, hi, hr, fun _ => ⟨rfl, rfl, rfl⟩, Nat.zero_le _, rfl, by simp, hfits⟩

theorem linkSound_linkAtFall (status : Word) (h : LinkSound l) :
    LinkSound (linkAtFall status l) := by
  obtain ⟨-, hidle, -, -, -, -, -, hfits⟩ := id h
  unfold linkAtFall
  split
  · next hs =>
    rw [hidle hs]
    exact linkSound_cleared nofun (fun _ => rfl) nofun rfl
  · exact linkSound_cleared nofun nofun (fun _ _ => rfl) hfits
  · exact h

theorem linkSound_linkAtWord (word : Word) (h : LinkSound l) : LinkSound (linkAtWord word l) := by
  obtain ⟨hprep, hidle, hrec, hout, hwords, hheader, hargs, hfits⟩ := id h
  unfold linkAtWord
  split
  · next hs =>
    refine ⟨fun hp => (nomatch hs.symm.trans hp), fun hi => (nomatch hs.symm.trans hi),
      fun _ hsome => by simp [hrec hs hsome], fun hn => absurd hs hn, Nat.min_le_left _ _, ?_, ?_,
      hfits⟩
    · dsimp only
      split
      · next h0 => simp [h0]
      · next h0 =>
        rw [hheader]
        simp only [decide_eq_decide]
        omega
    · dsimp only
      by_cases h0 : l.words = 0
      · simp [h0, hargs]
      · rw [if_neg h0]
        generalize (l.header.map Header.count).getD 0 = count at *
        split
        · rw [List.length_append, hargs, List.length_singleton]
          omega
        · rw [hargs]
          omega
  · exact ⟨hprep, hidle, hrec, hout, hwords, hheader, hargs, hfits⟩
  · exact ⟨hprep, hidle, hrec, hout, hwords, hheader, hargs, hfits⟩

theorem argumentCount_le (k : RequestKind) : argumentCount k ≤ 9 := by cases k <;> decide

/-- R140: what a frame that is handed on has passed. -/
theorem requestOfFrame_some {part : Bool} {k : RequestKind} (h : requestOfFrame part l = some k) :
    ∃ header, l.header = some header ∧ requestOfCode header.kind = some k ∧ part = false ∧
      l.discard = false ∧ header.count = argumentCount k ∧ 1 + header.count ≤ l.words := by
  unfold requestOfFrame at h
  split at h
  · cases h
  next header hh =>
  split at h
  · cases h
  next k' hk =>
  split at h
  · cases h
  next hchecks =>
  cases h
  simp only [Bool.or_eq_true, decide_eq_true_eq, not_or, Bool.not_eq_true, not_not, not_lt]
    at hchecks
  obtain ⟨⟨⟨hpart, hdiscard⟩, hcount⟩, hwords⟩ := hchecks
  exact ⟨header, hh, hk, hpart, hdiscard, hcount, hwords⟩

/-- A sound frame that is handed on has its kind's number of arguments. -/
theorem args_of_requestOfFrame {part : Bool} {k : RequestKind} (h : LinkSound l)
    (hk : requestOfFrame part l = some k) : l.args.length = argumentCount k := by
  obtain ⟨header, hheader, -, -, -, hcount, hwords⟩ := requestOfFrame_some hk
  obtain ⟨-, -, -, -, -, -, hargs, -⟩ := h
  have hle := argumentCount_le k
  rw [hargs, hheader]
  simp only [Option.map_some, Option.getD_some]
  omega

theorem linkSound_linkAtRise (part : Bool) (h : LinkSound l) : LinkSound (linkAtRise part l) := by
  obtain ⟨hprep, hidle, hrec, hout, hwords, hheader, hargs, hfits⟩ := id h
  unfold linkAtRise
  split
  · cases hk : requestOfFrame part l with
    | some k =>
      exact linkSound_cleared (fun _ => rfl) (by simp) (by simp)
        (by simp [preparationFits, args_of_requestOfFrame h hk])
    | none =>
      cases hpr : l.preparation with
      | none => exact linkSound_cleared (by simp) (fun _ => rfl) (by simp) rfl
      | some x => exact linkSound_cleared (fun _ => rfl) (by simp) (by simp) (hpr ▸ hfits)
  · exact ⟨hprep, hidle, hrec, hout, hwords, hheader, hargs, hfits⟩
  · exact ⟨hprep, hidle, hrec, hout, hwords, hheader, hargs, hfits⟩

theorem linkSound_linkAtAnswer (h : LinkSound l) : LinkSound (linkAtAnswer l) := by
  obtain ⟨hprep, hidle, hrec, hout, hwords, hheader, hargs, hfits⟩ := id h
  unfold linkAtAnswer
  split
  · refine ⟨fun hp => ?_, fun _ => rfl, (fun _ hs => by cases hs), fun hn => hout fun hr => ?_,
      hwords, hheader, hargs, rfl⟩
    · dsimp only at hp
      split at hp
      · cases hp
      · next hn => exact absurd hp hn
    · apply hn
      dsimp only
      rw [hr]
      rfl
  · exact h
  · exact h

/-- The owner's answer takes the place of the request it decides. -/
theorem linkSound_answered (a : Answer) (hp : l.preparation.isSome = true) (h : LinkSound l) :
    LinkSound { l with preparation := some (.answered a) } := by
  obtain ⟨-, hidle, hrec, hout, hwords, hheader, hargs, -⟩ := h
  refine ⟨fun _ => rfl, fun hi => ?_, fun hr _ => hrec hr hp, hout, hwords, hheader, hargs, rfl⟩
  rw [hidle hi] at hp
  cases hp

theorem lnkSound_updateLink (p : Port) {f : Link → Link} (hf : LinkSound (f (portGet s.links p)))
    (h : LnkSound s) : LnkSound (updateLink p f s) := by
  intro q
  by_cases hq : q = p
  · subst hq
    simpa [updateLink] using hf
  · simpa [updateLink, portGet_portSet_ne _ hq] using h q

theorem LnkSound.of_eq {t : State} (h : LnkSound s) (ht : t.links = s.links) : LnkSound t := by
  unfold LnkSound
  rw [ht]
  exact h

/-- A request that has been handed on is in preparation. -/
theorem preparation_of_askedOf {p : Port} {kind : RequestKind} {args : List Word}
    (h : askedOf s p kind = some args) :
    (portGet s.links p).preparation = some (.asked kind args) := by
  unfold askedOf at h
  split at h
  · next k args' hp =>
    split at h
    · next hk =>
      cases h
      rw [hp, hk]
    · cases h
  · cases h

/-- A request served by a decision that leaves the links alone. -/
theorem lnkSound_serve {p : Port} {kind : RequestKind}
    {decide_ : List Word → State → State × Result × List Word} (h : LnkSound s)
    (hd : ∀ args, (decide_ args s).1.links = s.links) : LnkSound (serve p kind decide_ s) := by
  refine serve_keeps LnkSound h fun args hasked => ?_
  refine lnkSound_updateLink p ?_ (h.of_eq (hd args))
  rw [hd args]
  exact linkSound_answered _ (by rw [preparation_of_askedOf hasked]; rfl) (h p)

theorem lnkSound_request {p : Port} {kind : RequestKind}
    {decide_ : List Word → State → State × Result × List Word} {us : List UnitName}
    (h : LnkSound s) (hd : ∀ args, SameBut us s (decide_ args s).1)
    (hn : .lnk ∉ us := by decide) :
    LnkSound (whenRunning (serve p kind decide_) s) :=
  whenRunning_keeps LnkSound _ h fun _ => lnkSound_serve h fun args => (hd args).links hn

theorem lnkSound_modeRequest {p : Port} {own : Nat} {needsRoll : Bool}
    {decide_ : State → State × Result} (h : LnkSound s)
    (hd : besideSeq (decide_ s).1 = besideSeq s) :
    LnkSound (whenRunning (serveMode p own needsRoll decide_) s) := by
  refine whenRunning_keeps LnkSound _ h fun _ => ?_
  unfold serveMode
  split
  · refine lnkSound_serve h fun args => ?_
    unfold admitMode refuse
    repeat' split
    all_goals first
      | rfl
      | exact (SameBut.of_besideSeq hd).links (by decide)
  · exact h

theorem lnkSound_lock {p : Port} (own : Nat) (holder : Option Port) (h : LnkSound s) :
    LnkSound (whenRunning (serveLock p own holder) s) := by
  refine whenRunning_keeps LnkSound _ h fun _ => ?_
  unfold serveLock
  split
  · exact h
  split
  · exact lnkSound_serve h fun args =>
      (SameBut.of_besideLkt (besideLkt_decideLock p own holder args s)).links (by decide)
  · exact h

theorem lnkSound_selectFall (p : Port) (h : LnkSound s) :
    LnkSound (if s.phase = .running then
        if (portGet s.links p).selectLow then s else updateLink p (linkAtFall (statusWord s p)) s
      else updateLink p (fun l => { l with selectLow := true }) s) := by
  split
  · split
    · exact h
    · exact lnkSound_updateLink p (linkSound_linkAtFall _ (h p)) h
  · exact lnkSound_updateLink p (h p) h

theorem lnkSound_effectOf (c : Instr) (hc : startsPart c = false) (h : LnkSound s) :
    LnkSound (effectOf c s) := by
  cases c with
  | supplyStart | resetLine | resetLineRelease | startUpLoadEnd => cases hc
  | selectFall w p => exact lnkSound_selectFall p h
  | selectRise w p part => exact lnkSound_updateLink p (linkSound_linkAtRise part (h p)) h
  | answerCompletion w p => exact lnkSound_updateLink p (linkSound_linkAtAnswer (h p)) h
  | wordCompletion w p word => exact lnkSound_updateLink p (linkSound_linkAtWord word (h p)) h
  | lockTableSet w p => exact lnkSound_lock _ _ h
  | lockTableClear w p => exact lnkSound_lock _ _ h
  | engage w p => exact lnkSound_modeRequest h (besideSeq_decideEngage p s)
  | roll w p => exact lnkSound_modeRequest h (besideSeq_decideRoll s)
  | stopRoll w p => exact lnkSound_modeRequest h (besideSeq_decideStopRoll s)
  | disengage w p => exact lnkSound_modeRequest h (besideSeq_decideDisengage p s)
  | readStatus w p =>
    exact lnkSound_request (us := []) h
      (fun args => by rw [decideReadStatus_state]; exact .refl _ _)
  | readRow w p =>
    exact lnkSound_request (us := []) h
      (fun args => by rw [decideReadRow_state]; exact .refl _ _)
  | readConfig w p =>
    exact lnkSound_request (us := []) h
      (fun args => by rw [decideReadConfig_state]; exact .refl _ _)
  | readNotice w p => exact lnkSound_request h (fun _ => .of_besideNtq rfl)
  | readResetCause w p => exact lnkSound_request h (fun _ => .of_besideNtq rfl)
  | reportSpeed w p => exact lnkSound_request h (fun args => sameBut_decideReportSpeed p args s)
  | setGovernor w p =>
    exact lnkSound_request h (fun args => .of_besideGov (besideGov_decideSetGovernor p args s))
  | selectSupply w p =>
    exact lnkSound_request h (fun args => .of_besideTnk (besideTnk_decideSelectSupply p args s))
  | fillStart w p =>
    exact lnkSound_request h (fun args => .of_besideTnk (besideTnk_decideFillStart p args s))
  | fillStop w p =>
    exact lnkSound_request h (fun args => .of_besideTnk (besideTnk_decideFillStop p args s))
  | ackRow w p =>
    exact lnkSound_request h (fun args => .of_besideLkt (besideLkt_decideAckRow p args s))
  | writeRow w p => exact lnkSound_request h (fun args => sameBut_decideWriteRow p args s)
  | writeConfig w p =>
    exact lnkSound_request h (fun args => sameBut_decideWriteConfig p args s)
  | storeConfig w p =>
    exact lnkSound_request h (fun args => sameBut_decideStoreConfig p args s)
  | postNote w p =>
    exact lnkSound_request (us := []) h (fun args => sameBut_decidePostNote [] p args s)
  | _ => exact h.of_eq ((sameBut_effectOf _ s hc).links (by simp [touches]))

end LinkRecords

/-- The end of the load leaves the links as they were. -/
theorem links_loadEnd (lines : Levels) (s : State) : (loadEnd lines s).links = s.links := by
  have h : ∀ x, (placeTable x).links = x.links := fun x =>
    (SameBut.of_besideLkt (besideLkt_placeTable x)).links (by decide)
  rw [loadEnd, h]
  simp only [startScan_links, startPwm_links, startGate_links, startInputs, loadRecords, loadConfig]
  split <;> rfl

theorem links_deliver (g : Handover) (s : State) : (deliver g s).links = s.links :=
  (sameBut_deliver g s).links (by cases g <;> simp [path])

theorem linkSound_resetLink (low : Bool) : LinkSound (resetLink low) :=
  linkSound_cleared (by simp) (fun _ => rfl) (by simp) rfl

/-- Settles O14. -/
theorem stepKeepsTheLinksSound : Obligations.StepKeepsTheLinksSound := by
  unfold Obligations.StepKeepsTheLinksSound
  intro s t hs h
  exact step_keeps_sorted LnkSound (fun _ _ h => h) (fun dt s h => h.of_eq (advance_links dt s))
    (fun g rest s h _ _ => h.of_eq (links_deliver _ _))
    (fun phase cause s _ _ p => portGet_of_all (linkSound_resetLink _) (linkSound_resetLink _)
      (linkSound_resetLink _) p)
    (fun _ _ h => h) (fun lines s _ h => h.of_eq (links_loadEnd lines s))
    (fun c s hc h => lnkSound_effectOf c hc h) hs h

end Sys2Proof.Machine
end

section
/-! A valid configuration's image reads back as it (R160, R162). -/

namespace Sys2Proof.Machine

/-! ### Words of numbers -/

theorem toNat_wordOfNat {n : Nat} (h : n ≤ 65535) : (wordOfNat n).toNat = n := by
  simp only [wordOfNat, BitVec.toNat_ofNat]
  omega

theorem toInt_wordOfInt {v : Int} (h1 : -32768 ≤ v) (h2 : v ≤ 32767) : (wordOfInt v).toInt = v := by
  simp only [wordOfInt, BitVec.toInt_ofInt, Int.bmod]
  omega

theorem toNat_wordOfInt {v : Int} (h1 : 0 ≤ v) (h2 : v ≤ 65535) :
    ((wordOfInt v).toNat : Int) = v := by
  simp only [wordOfInt, BitVec.toNat_ofInt]
  omega

theorem within_iff {lo hi x : Nat} : within lo hi x = true ↔ lo ≤ x ∧ x ≤ hi := by
  simp [within]

/-! ### The parts of an image -/

theorem length_sevenWords (ws : List Word) : (sevenWords ws).length = 7 := by
  simp [sevenWords]

theorem length_partWords (c : WorkingConfig) (item part : Nat) :
    (partWords c item part).length = 7 :=
  length_sevenWords _

theorem length_rowWords (r : RowRecord) : (rowWords r).length = 6 := rfl

/-- Part `k` of parts of seven words. -/
theorem imagePart_flatMap {α : Type} (f : α → List Word) (hf : ∀ a, (f a).length = 7)
    (rest : List Word) : ∀ (l : List α) (k : Nat) (h : k < l.length),
      imagePart (l.flatMap f ++ rest) k = f l[k]
  | [], k, h => absurd h (Nat.not_lt_zero k)
  | a :: l, 0, _ => by
    rw [imagePart, List.flatMap_cons, List.append_assoc, Nat.mul_zero, List.drop_zero,
      List.take_append_of_le_length (by rw [hf]), List.take_of_length_le (by rw [hf])]
    rfl
  | a :: l, k + 1, h => by
    have ih := imagePart_flatMap f hf rest l k (by simpa using h)
    rw [List.getElem_cons_succ, ← ih, imagePart, imagePart, List.flatMap_cons, List.append_assoc,
      List.drop_append, List.drop_of_length_le (by rw [hf]; omega), List.nil_append, hf]
    congr 2

theorem imagePart_imageWords (c : WorkingConfig) (k : Nat) (h : k < imageParts.length) :
    imagePart (imageWords c) k = partWords c imageParts[k].1 imageParts[k].2 :=
  imagePart_flatMap (fun ip => partWords c ip.1 ip.2) (fun _ => length_partWords _ _ _) _ _ k h

/-- The rows' words stand behind the 27 parts. -/
theorem drop_imageWords (c : WorkingConfig) :
    (imageWords c).drop 189 = c.rows.flatMap rowWords := by
  have hlength : (imageParts.flatMap fun ip => partWords c ip.1 ip.2).length = 189 := by
    simp only [List.length_flatMap, length_partWords]
    rfl
  rw [imageWords, List.drop_left' hlength]

/-! ### Rows -/

theorem bit_le (b : Bool) : bit b ≤ 1 := by cases b <;> decide

theorem sourceOfCode_sourceCode (x : Source) : sourceOfCode (sourceCode x) = some x := by
  cases x <;> rfl

theorem comparisonOfCode_comparisonCode (x : Comparison) :
    comparisonOfCode (comparisonCode x) = some x := by
  cases x <;> rfl

theorem supplyOfCode_supplyCode (x : Supply) : supplyOfCode (supplyCode x) = some x := by
  cases x <;> rfl

theorem sourceCode_lt (x : Source) : sourceCode x < 17 := by cases x <;> decide

theorem comparisonCode_lt (x : Comparison) : comparisonCode x < 5 := by cases x <;> decide

/-- The first word of a row record: its source, comparison and flags. -/
def rowHead (r : RowRecord) : Word :=
  packWord [(5, sourceCode r.source), (5, 0), (3, comparisonCode r.comparison),
    (1, bit r.onFaultTrue), (1, bit r.latched), (1, bit r.enable)]

/-- The fourth word: the hysteresis and the blocks. -/
def rowBlocks (r : RowRecord) : Word := packWord [(10, r.h), (6, r.blocks.toNat)]

/-- The fifth word: the mode mask and the precursor. -/
def rowMask (r : RowRecord) : Word := packWord [(8, r.mask.toNat), (5, r.precursor.getD 31)]

theorem rowWords_eq (r : RowRecord) :
    rowWords r = [rowHead r, wordOfInt r.lo, wordOfInt r.hi, rowBlocks r, rowMask r,
      wordOfNat r.hold] := rfl

theorem toNat_rowHead (r : RowRecord) :
    (rowHead r).toNat =
      sourceCode r.source + 1024 * comparisonCode r.comparison + 8192 * bit r.onFaultTrue +
        16384 * bit r.latched + 32768 * bit r.enable := by
  have h1 := sourceCode_lt r.source
  have h2 := comparisonCode_lt r.comparison
  have h3 := bit_le r.onFaultTrue
  have h4 := bit_le r.latched
  have h5 := bit_le r.enable
  simp only [rowHead, packWord, packFields, wordOfNat, BitVec.toNat_ofNat]
  omega

theorem toNat_rowBlocks {r : RowRecord} (h : r.h ≤ 1000) :
    (rowBlocks r).toNat = r.h + 1024 * r.blocks.toNat := by
  have hblocks : r.blocks.toNat < 64 := r.blocks.isLt
  simp only [rowBlocks, packWord, packFields, wordOfNat, BitVec.toNat_ofNat]
  omega

theorem toNat_rowMask {r : RowRecord} (h : r.precursor.getD 31 < 32) :
    (rowMask r).toNat = r.mask.toNat + 256 * r.precursor.getD 31 := by
  have hmask : r.mask.toNat < 256 := r.mask.isLt
  simp only [rowMask, packWord, packFields, wordOfNat, BitVec.toNat_ofNat]
  omega

theorem getLsbD_eq_of_toNat {w : Word} {n : Nat} {b : Bool} (h : w.toNat / 2 ^ n % 2 = bit b) :
    w.getLsbD n = b := by
  rw [← BitVec.testBit_toNat, Nat.testBit_eq_decide_div_mod_eq, h]
  cases b <;> rfl

/-- A bound is read back from its word. -/
theorem boundOfWord_wordOfInt {source : Source} {v : Int} (h : boundFits source v = true) :
    boundOfWord source (wordOfInt v) = v := by
  unfold boundFits at h
  unfold boundOfWord
  split
  · next hs =>
    simp only [hs, if_true, Bool.and_eq_true, decide_eq_true_eq] at h
    exact toInt_wordOfInt h.1 h.2
  · next hs =>
    simp only [hs, if_false, Bool.and_eq_true, decide_eq_true_eq] at h
    exact toNat_wordOfInt h.1 h.2

/-- The ranges of a row record that matter for its words. -/
theorem rowValid_bounds {index : Nat} {r : RowRecord} (h : rowValid index r = true) :
    r.h ≤ 1000 ∧ r.hold ≤ 60000 ∧ ∀ p ∈ r.precursor, p < index := by
  simp only [rowValid, Bool.and_eq_true, decide_eq_true_eq] at h
  obtain ⟨⟨⟨-, hh⟩, hhold⟩, hp⟩ := h
  refine ⟨hh, hhold, fun p hm => ?_⟩
  rw [Option.mem_def] at hm
  rw [hm] at hp
  simpa using hp

/-- The flags of the first word. -/
theorem rowHead_flags (r : RowRecord) :
    (rowHead r).getLsbD 15 = r.enable ∧ (rowHead r).getLsbD 14 = r.latched ∧
      (rowHead r).getLsbD 13 = r.onFaultTrue := by
  have h1 := sourceCode_lt r.source
  have h2 := comparisonCode_lt r.comparison
  have h3 := bit_le r.onFaultTrue
  have h4 := bit_le r.latched
  have h5 := bit_le r.enable
  have hhead := toNat_rowHead r
  exact ⟨getLsbD_eq_of_toNat (by omega), getLsbD_eq_of_toNat (by omega),
    getLsbD_eq_of_toNat (by omega)⟩

/-- The codes of the first word. -/
theorem rowHead_codes (r : RowRecord) :
    fieldOf (rowHead r) 0 5 = sourceCode r.source ∧
      fieldOf (rowHead r) 10 3 = comparisonCode r.comparison := by
  have h1 := sourceCode_lt r.source
  have h2 := comparisonCode_lt r.comparison
  have h3 := bit_le r.onFaultTrue
  have h4 := bit_le r.latched
  have h5 := bit_le r.enable
  have hhead := toNat_rowHead r
  unfold fieldOf
  omega

theorem rowBlocks_fields {r : RowRecord} (h : r.h ≤ 1000) :
    fieldOf (rowBlocks r) 0 10 = r.h ∧
      BitVec.ofNat 6 (fieldOf (rowBlocks r) 10 6) = r.blocks := by
  have hblocks : r.blocks.toNat < 64 := r.blocks.isLt
  have hword := toNat_rowBlocks h
  have hfield : fieldOf (rowBlocks r) 10 6 = r.blocks.toNat := by unfold fieldOf; omega
  refine ⟨by unfold fieldOf; omega, ?_⟩
  rw [hfield, BitVec.ofNat_toNat, BitVec.setWidth_eq]

/-- A precursor, none written as 31, is read back. -/
theorem rowMask_fields {r : RowRecord} (h : ∀ p ∈ r.precursor, p < 23) :
    (rowMask r).setWidth 8 = r.mask ∧
      (if fieldOf (rowMask r) 8 5 = 31 then none else some (fieldOf (rowMask r) 8 5)) =
        r.precursor := by
  have hlt : r.precursor.getD 31 < 32 := by
    cases hp : r.precursor with
    | none => decide
    | some p => exact Nat.lt_trans (h p hp) (by decide)
  have hmask : r.mask.toNat < 256 := r.mask.isLt
  have hword := toNat_rowMask hlt
  have hfield : fieldOf (rowMask r) 8 5 = r.precursor.getD 31 := by unfold fieldOf; omega
  refine ⟨BitVec.eq_of_toNat_eq (by rw [BitVec.toNat_setWidth]; omega), ?_⟩
  rw [hfield]
  cases hp : r.precursor with
  | none => rfl
  | some p =>
    have := h p hp
    rw [Option.getD_some, if_neg (by omega)]

/-- R64: the words of a valid record are read back as it. -/
theorem rowOfWords_rowWords {index : Nat} {r : RowRecord} (hi : index ≤ 23)
    (h : programmableValid index r = true) : rowOfWords (rowWords r) = some r := by
  simp only [programmableValid, Bool.and_eq_true] at h
  obtain ⟨⟨hvalid, hlo⟩, hhi⟩ := h
  obtain ⟨hh, hhold, hprecursor⟩ := rowValid_bounds hvalid
  obtain ⟨henable, hlatched, honFault⟩ := rowHead_flags r
  obtain ⟨hsource, hcomparison⟩ := rowHead_codes r
  obtain ⟨hhyst, hblocks⟩ := rowBlocks_fields hh
  obtain ⟨hmask, hprec⟩ := rowMask_fields fun p hp => by have := hprecursor p hp; omega
  simp only [rowWords_eq, rowOfWords, hsource, hcomparison, sourceOfCode_sourceCode,
    comparisonOfCode_comparisonCode, rowFields, Option.some.injEq]
  rw [henable, hlatched, honFault, hhyst, hblocks, hmask, hprec, boundOfWord_wordOfInt hlo,
    boundOfWord_wordOfInt hhi, toNat_wordOfNat (by omega)]

/-- The words of valid records are read back as them. -/
theorem rowsOfWords_rowWords : ∀ (rows : List RowRecord) (index : Nat), index + rows.length ≤ 24 →
    programmablesValid index rows = true →
      rowsOfWords rows.length (rows.flatMap rowWords) = some rows
  | [], _, _, _ => rfl
  | r :: rest, index, hl, h => by
    simp only [programmablesValid, Bool.and_eq_true] at h
    rw [List.length_cons] at hl
    have ih := rowsOfWords_rowWords rest (index + 1) (by omega) h.2
    have htake : (rowWords r ++ rest.flatMap rowWords).take 6 = rowWords r :=
      List.take_left' (length_rowWords r)
    have hdrop : (rowWords r ++ rest.flatMap rowWords).drop 6 = rest.flatMap rowWords :=
      List.drop_left' (length_rowWords r)
    rw [List.flatMap_cons, List.length_cons, rowsOfWords, htake, hdrop, ih,
      rowOfWords_rowWords (by omega) h.1]

/-! ### Items -/

/-- Numbers that fit a word, written as a part's words, are read back. -/
theorem valueAt_sevenWords {vs : List Nat} (h : ∀ v ∈ vs, v ≤ 65535) {n : Nat} (hn : n < 7) :
    valueAt (sevenWords (vs.map wordOfNat)) n = vs.getD n 0 := by
  rw [valueAt, sevenWords, List.getD_eq_getElem?_getD, List.getElem?_take_of_lt hn,
    List.getD_eq_getElem?_getD]
  by_cases hlt : n < vs.length
  · rw [List.getElem?_append_left (by simpa using hlt), List.getElem?_map,
      List.getElem?_eq_getElem hlt]
    exact toNat_wordOfNat (h _ (List.getElem_mem hlt))
  · rw [List.getElem?_append_right (by simpa using hlt), List.getElem?_replicate,
      List.getElem?_eq_none (by omega)]
    split <;> rfl

/-- The first six and the seventh of them. -/
theorem values_sevenWords {vs : List Nat} (h : ∀ v ∈ vs, v ≤ 65535) :
    valueAt (sevenWords (vs.map wordOfNat)) 0 = vs.getD 0 0 ∧
      valueAt (sevenWords (vs.map wordOfNat)) 1 = vs.getD 1 0 ∧
      valueAt (sevenWords (vs.map wordOfNat)) 2 = vs.getD 2 0 ∧
      valueAt (sevenWords (vs.map wordOfNat)) 3 = vs.getD 3 0 ∧
      valueAt (sevenWords (vs.map wordOfNat)) 4 = vs.getD 4 0 ∧
      valueAt (sevenWords (vs.map wordOfNat)) 5 = vs.getD 5 0 ∧
      valueAt (sevenWords (vs.map wordOfNat)) 6 = vs.getD 6 0 :=
  ⟨valueAt_sevenWords h (by decide), valueAt_sevenWords h (by decide),
    valueAt_sevenWords h (by decide), valueAt_sevenWords h (by decide),
    valueAt_sevenWords h (by decide), valueAt_sevenWords h (by decide),
    valueAt_sevenWords h (by decide)⟩

theorem gainsOfWords_partWords {c : WorkingConfig}
    (h : gainsValid c.gains = true) : gainsOfWords (partWords c 1 0) = c.gains := by
  simp only [gainsValid, Bool.and_eq_true, within_iff] at h
  obtain ⟨h0, h1, h2, h3, h4, h5, -⟩ := values_sevenWords
    (vs := [c.gains.kpPressure, c.gains.kiPressure, c.gains.kpSpeed,
      c.gains.kiSpeed, c.gains.slew, c.gains.ceiling]) (by simp; omega)
  have hwords : partWords c 1 0 = sevenWords
    ([c.gains.kpPressure, c.gains.kiPressure, c.gains.kpSpeed,
      c.gains.kiSpeed, c.gains.slew, c.gains.ceiling].map wordOfNat) := rfl
  rw [hwords, gainsOfWords, h0, h1, h2, h3, h4, h5]
  rfl

theorem govDefaultsOfWords_partWords {c : WorkingConfig}
    (h : govDefaultsValid c.govDefaults = true) :
    govDefaultsOfWords (partWords c 2 0) = c.govDefaults := by
  simp only [govDefaultsValid, Bool.and_eq_true, within_iff, decide_eq_true_eq] at h
  have hwords : partWords c 2 0 = [wordOfNat c.govDefaults.pressure, wordOfNat c.govDefaults.speed,
      wordOfInt c.govDefaults.floor, wordOfNat c.govDefaults.hysteresis, 0, 0, 0] := rfl
  rw [hwords]
  simp only [govDefaultsOfWords, valueAt, List.getD_cons_zero, List.getD_cons_succ]
  rw [toNat_wordOfNat (by omega), toNat_wordOfNat (by omega), toInt_wordOfInt (by omega) (by omega),
    toNat_wordOfNat (by omega)]

theorem fixedRowItemsOfWords_partWords {c : WorkingConfig}
    (h : fixedRowItemsValid c.fixedRows = true) :
    fixedRowItemsOfWords (partWords c 3 0) = c.fixedRows := by
  simp only [fixedRowItemsValid, Bool.and_eq_true, within_iff] at h
  obtain ⟨h0, h1, h2, h3, h4, h5, h6⟩ := values_sevenWords
    (vs := [c.fixedRows.rollLimit, c.fixedRows.pMax, c.fixedRows.hold2,
      c.fixedRows.hold3, c.fixedRows.hold6, c.fixedRows.hold9, c.fixedRows.hold10]) (by simp; omega)
  have hwords : partWords c 3 0 = sevenWords
    ([c.fixedRows.rollLimit, c.fixedRows.pMax, c.fixedRows.hold2,
      c.fixedRows.hold3, c.fixedRows.hold6, c.fixedRows.hold9,
      c.fixedRows.hold10].map wordOfNat) := rfl
  rw [hwords, fixedRowItemsOfWords, h0, h1, h2, h3, h4, h5, h6]
  rfl

theorem thresholdsOfWords_thresholdWords {t : TankThresholds} (h : thresholdsValid t = true) :
    thresholdsOfWords (sevenWords (thresholdWords t)) = t := by
  simp only [thresholdsValid, Bool.and_eq_true, within_iff, decide_eq_true_eq] at h
  obtain ⟨h0, h1, h2, h3, -, -, -⟩ := values_sevenWords
    (vs := [t.empty, t.low, t.full, t.hv]) (by simp; omega)
  have hwords : thresholdWords t = [t.empty, t.low, t.full, t.hv].map wordOfNat := rfl
  rw [hwords, thresholdsOfWords, h0, h1, h2, h3]
  rfl

theorem tolerancesOfWords_partWords {c : WorkingConfig}
    (h : tolerancesValid c.tolerances = true) :
    tolerancesOfWords (partWords c 5 0) = c.tolerances := by
  simp only [tolerancesValid, Bool.and_eq_true, within_iff] at h
  obtain ⟨h0, h1, -, -, -, -, -⟩ := values_sevenWords
    (vs := [c.tolerances.speed, c.tolerances.gauge]) (by simp; omega)
  have hwords : partWords c 5 0 = sevenWords
    ([c.tolerances.speed, c.tolerances.gauge].map wordOfNat) := rfl
  rw [hwords, tolerancesOfWords, h0, h1]
  rfl

theorem timingOfWords_partWords {c : WorkingConfig}
    (h : timingValid c.timing = true) : timingOfWords (partWords c 6 0) = c.timing := by
  simp only [timingValid, Bool.and_eq_true, within_iff] at h
  obtain ⟨h0, h1, h2, h3, h4, -, -⟩ := values_sevenWords
    (vs := [c.timing.shift, c.timing.spinDown,
      c.timing.release, c.timing.disengageSpeed, c.timing.debounce]) (by simp; omega)
  have hwords : partWords c 6 0 = sevenWords
    ([c.timing.shift, c.timing.spinDown,
      c.timing.release, c.timing.disengageSpeed, c.timing.debounce].map wordOfNat) := rfl
  rw [hwords, timingOfWords, h0, h1, h2, h3, h4]
  rfl

theorem ratesOfWords_partWords {c : WorkingConfig}
    (h : ratesValid c.rates = true) : ratesOfWords (partWords c 7 0) = c.rates := by
  simp only [ratesValid, Bool.and_eq_true, within_iff] at h
  obtain ⟨h0, h1, h2, h3, h4, -, -⟩ := values_sevenWords
    (vs := [c.rates.q, c.rates.gate,
      c.rates.pulsesPerKm, c.rates.reportInterval, c.rates.scanPeriod]) (by simp; omega)
  have hwords : partWords c 7 0 = sevenWords
    ([c.rates.q, c.rates.gate,
      c.rates.pulsesPerKm, c.rates.reportInterval, c.rates.scanPeriod].map wordOfNat) := rfl
  rw [hwords, ratesOfWords, h0, h1, h2, h3, h4]
  rfl

theorem supplyCode_le (x : Supply) : supplyCode x ≤ 1 := by cases x <;> decide

theorem fillItemsOfWords_partWords {c : WorkingConfig} (h : fillItemsValid c.fillItems = true) :
    fillItemsOfWords (partWords c 8 0) = some c.fillItems := by
  simp only [fillItemsValid, Bool.and_eq_true, within_iff] at h
  have hs := supplyCode_le c.fillItems.supplyDefault
  have hb := bit_le c.fillItems.rollEnabled
  have hroll : (bit c.fillItems.rollEnabled == 1) = c.fillItems.rollEnabled := by
    cases c.fillItems.rollEnabled <;> rfl
  obtain ⟨h0, h1, h2, h3, h4, -, -⟩ := values_sevenWords
    (vs := [c.fillItems.timeoutMin, c.fillItems.stallSec, c.fillItems.minRise,
      supplyCode c.fillItems.supplyDefault, bit c.fillItems.rollEnabled]) (by simp; omega)
  have hwords : partWords c 8 0 = sevenWords
    ([c.fillItems.timeoutMin, c.fillItems.stallSec, c.fillItems.minRise,
      supplyCode c.fillItems.supplyDefault, bit c.fillItems.rollEnabled].map wordOfNat) := rfl
  rw [hwords, fillItemsOfWords, h0, h1, h2, h3, h4]
  simp only [List.getD_cons_zero, List.getD_cons_succ, supplyOfCode_supplyCode, if_pos hb, hroll]

theorem calibrationOfWords_partWords {c : WorkingConfig} {part : Nat} {k : Calibration}
    (hk : c.calibration[part]? = some k) (h : calibrationValid k = true) :
    calibrationOfWords (partWords c 10 part) = k := by
  simp only [calibrationValid, Bool.and_eq_true, within_iff, decide_eq_true_eq] at h
  obtain ⟨h0, h1, h2, h3, -, -, -⟩ := values_sevenWords
    (vs := [k.offset, k.gain, k.lo, k.hi]) (by simp; omega)
  have hwords : partWords c 10 part =
      sevenWords ([k.offset, k.gain, k.lo, k.hi].map wordOfNat) := by
    simp only [partWords, partValues, hk]
  rw [hwords, calibrationOfWords, h0, h1, h2, h3]
  rfl

/-- R97: the points of a table lie within a word. -/
theorem strapValid_bounds {table : List StrapPoint} (h : strapValid table = true) :
    table.length = 9 ∧ ∀ q ∈ table, q.level ≤ 2000 ∧ q.volume ≤ 65535 := by
  simp only [strapValid, Bool.and_eq_true, decide_eq_true_eq, List.all_eq_true] at h
  exact ⟨h.1.1.1, h.1.1.2⟩

/-- Three points' words are read back as them. -/
theorem pointsOfWords_sevenWords {a b c : StrapPoint}
    (h : ∀ q ∈ [a, b, c], q.level ≤ 2000 ∧ q.volume ≤ 65535) :
    pointsOfWords (sevenWords ([a, b, c].flatMap pointWords)) = [a, b, c] := by
  have ha := h a (by simp)
  have hb := h b (by simp)
  have hc := h c (by simp)
  obtain ⟨h0, h1, h2, h3, h4, h5, -⟩ := values_sevenWords
    (vs := [a.level, a.volume, b.level, b.volume, c.level, c.volume]) (by simp; omega)
  have hwords : [a, b, c].flatMap pointWords =
      [a.level, a.volume, b.level, b.volume, c.level, c.volume].map wordOfNat := rfl
  rw [hwords, pointsOfWords, h0, h1, h2, h3, h4, h5]
  rfl

/-- A list of nine, entry by entry. -/
theorem eq_nine_of_length {α : Type} {l : List α} (h : l.length = 9) :
    ∃ a b c d e f g i j, l = [a, b, c, d, e, f, g, i, j] := by
  match l, h with
  | [a, b, c, d, e, f, g, i, j], _ => exact ⟨a, b, c, d, e, f, g, i, j, rfl⟩

theorem strap_readBack {table : List StrapPoint} (h : strapValid table = true) :
    [0, 1, 2].flatMap (fun k => pointsOfWords (sevenWords (strapPart table k))) = table := by
  obtain ⟨hlength, hbounds⟩ := strapValid_bounds h
  obtain ⟨a, b, c, d, e, f, g, i, j, rfl⟩ := eq_nine_of_length hlength
  have h0 : strapPart [a, b, c, d, e, f, g, i, j] 0 = [a, b, c].flatMap pointWords := rfl
  have h1 : strapPart [a, b, c, d, e, f, g, i, j] 1 = [d, e, f].flatMap pointWords := rfl
  have h2 : strapPart [a, b, c, d, e, f, g, i, j] 2 = [g, i, j].flatMap pointWords := rfl
  have hpart : ∀ {x y z : StrapPoint}, (∀ q ∈ [x, y, z], q ∈ [a, b, c, d, e, f, g, i, j]) →
      pointsOfWords (sevenWords ([x, y, z].flatMap pointWords)) = [x, y, z] :=
    fun hsub => pointsOfWords_sevenWords fun q hq => hbounds q (hsub q hq)
  simp only [List.flatMap_cons, List.flatMap_nil] at h0 h1 h2 hpart ⊢
  rw [h0, h1, h2, hpart (by simp), hpart (by simp), hpart (by simp)]
  rfl

/-- Fewer than seven words, filled up. -/
theorem sevenWords_eq {ws : List Word} (h : ws.length ≤ 7) :
    sevenWords ws = ws ++ List.replicate (7 - ws.length) 0 := by
  rw [sevenWords, List.take_append, List.take_of_length_le h, List.take_replicate]
  congr 2
  omega

/-- Small numbers as words and back. -/
theorem map_toNat_wordOfNat {ks : List Nat} (h : ∀ k ∈ ks, k ≤ 65535) :
    (ks.map wordOfNat).map BitVec.toNat = ks := by
  rw [List.map_map]
  conv_rhs => rw [← List.map_id ks]
  exact List.map_congr_left fun k hk => toNat_wordOfNat (h k hk)

/-- The scan list is read back from its two parts. -/
theorem scanListOfWords_partWords {c : WorkingConfig} (h : scanListValid c.scanList = true) :
    scanListOfWords (partWords c 9 0) (partWords c 9 1) = c.scanList := by
  simp only [scanListValid, Bool.and_eq_true, within_iff, List.all_eq_true, decide_eq_true_eq] at h
  obtain ⟨⟨⟨-, hlength⟩, hall⟩, -⟩ := h
  generalize hl : c.scanList = l at *
  have hsmall : ∀ k ∈ l, k ≤ 65535 := fun k hk => (hall k hk).trans (by decide)
  have hp0 : partWords c 9 0 =
      (l.length :: l.take 6).map wordOfNat ++ List.replicate (6 - min 6 l.length) 0 := by
    simp only [partWords, partValues, hl, if_true]
    rw [sevenWords_eq (by simp)]
    congr 2
    simp
  have hp1 : partWords c 9 1 =
      (l.drop 6).map wordOfNat ++ List.replicate (7 - (l.length - 6)) 0 := by
    simp only [partWords, partValues, hl, one_ne_zero, if_false]
    rw [sevenWords_eq (by simp; omega)]
    simp
  have hhead : valueAt (partWords c 9 0) 0 = l.length := by
    rw [hp0]
    exact toNat_wordOfNat (by omega)
  have hfirst : ((partWords c 9 0).drop 1).take 6 =
      (l.take 6).map wordOfNat ++ List.replicate (6 - min 6 l.length) 0 := by
    rw [hp0]
    exact List.take_of_length_le (by simp)
  rw [scanListOfWords, hhead, hfirst]
  by_cases hle : l.length ≤ 6
  · rw [List.take_of_length_le hle, List.append_assoc, List.map_append, map_toNat_wordOfNat hsmall,
      List.take_left']
    rfl
  · have hlast : (List.map BitVec.toNat ((partWords c 9 1).take 6)).take (l.length - 6) =
        l.drop 6 := by
      rw [hp1, ← List.map_take, List.take_take, min_eq_left (by omega),
        List.take_left' (by simp),
        map_toNat_wordOfNat fun k hk => hsmall k (List.mem_of_mem_drop hk)]
    rw [min_eq_left (by omega), Nat.sub_self, List.replicate_zero, List.append_nil, List.map_append,
      map_toNat_wordOfNat fun k hk => hsmall k (List.mem_of_mem_take hk), List.take_append,
      List.take_of_length_le (by simp), List.length_take, min_eq_left (by omega), hlast,
      List.take_append_drop]

/-! ### The whole image -/

theorem rightsOfWords_partWords (c : WorkingConfig) :
    rightsOfWords (partWords c 13 0) = c.rights := by
  have hround : ∀ r : RightSet, (r.setWidth 16).setWidth 7 = r := fun r => by
    apply BitVec.eq_of_toNat_eq
    have := r.isLt
    simp only [BitVec.toNat_setWidth]
    omega
  have hwords : partWords c 13 0 = [c.rights.chassis.setWidth 16, c.rights.cab.setWidth 16,
    c.rights.panel.setWidth 16, wordOfNat c.ranks.chassis, wordOfNat c.ranks.cab,
    wordOfNat c.ranks.panel, 0] := rfl
  rw [hwords]
  simp only [rightsOfWords, List.getD_cons_zero, List.getD_cons_succ, hround]

theorem ranksOfWords_partWords {c : WorkingConfig} (h : ranksValid c.ranks = true) :
    ranksOfWords (partWords c 13 0) = c.ranks := by
  simp only [ranksValid, Bool.and_eq_true, within_iff] at h
  obtain ⟨⟨⟨⟨hchassis, hcab⟩, hpanel⟩, -⟩, -⟩ := h
  have hwords : partWords c 13 0 = [c.rights.chassis.setWidth 16, c.rights.cab.setWidth 16,
    c.rights.panel.setWidth 16, wordOfNat c.ranks.chassis, wordOfNat c.ranks.cab,
    wordOfNat c.ranks.panel, 0] := rfl
  rw [hwords]
  simp only [ranksOfWords, valueAt, List.getD_cons_zero, List.getD_cons_succ]
  rw [toNat_wordOfNat (by omega), toNat_wordOfNat (by omega), toNat_wordOfNat (by omega)]

theorem subscriptionsOfWords_partWords {c : WorkingConfig}
    (h1 : subscriptionValid c.subscriptions.chassis = true)
    (h2 : subscriptionValid c.subscriptions.cab = true)
    (h3 : subscriptionValid c.subscriptions.panel = true) :
    subscriptionsOfWords (partWords c 14 0) = c.subscriptions := by
  simp only [subscriptionValid, beq_iff_eq] at h1 h2 h3
  have hwords : partWords c 14 0 = [c.subscriptions.chassis, c.subscriptions.cab,
    c.subscriptions.panel, 0, 0, 0, 0] := rfl
  rw [hwords]
  simp only [subscriptionsOfWords, List.getD_cons_zero, List.getD_cons_succ, h1, h2, h3]

/-- The eight calibration records are read back. -/
theorem calibration_readBack {c : WorkingConfig} (hl : c.calibration.length = 8)
    (h : ∀ k ∈ c.calibration, calibrationValid k = true) :
    [0, 1, 2, 3, 4, 5, 6, 7].map (fun part => calibrationOfWords (partWords c 10 part)) =
      c.calibration := by
  have hpart : ∀ part k, c.calibration[part]? = some k →
      calibrationOfWords (partWords c 10 part) = k := fun part k hk =>
    calibrationOfWords_partWords hk (h k (List.mem_of_getElem? hk))
  apply List.ext_getElem (by simp [hl])
  intro i hi hi'
  have hi8 : i < 8 := by omega
  have hlist : [0, 1, 2, 3, 4, 5, 6, 7][i]'(by simpa using hi8) = i := by
    interval_cases i <;> rfl
  rw [List.getElem_map, hlist]
  exact hpart i _ (List.getElem?_eq_getElem hi')

/-- What a valid configuration is, item by item. -/
theorem configValid_iff (c : WorkingConfig) : configValid c = true ↔
    gainsValid c.gains = true ∧ govDefaultsValid c.govDefaults = true ∧
    fixedRowItemsValid c.fixedRows = true ∧ thresholdsValid c.tank0 = true ∧
    thresholdsValid c.tank1 = true ∧ tolerancesValid c.tolerances = true ∧
    timingValid c.timing = true ∧ ratesValid c.rates = true ∧ fillItemsValid c.fillItems = true ∧
    scanListValid c.scanList = true ∧
    (c.calibration.length = 8 ∧ ∀ k ∈ c.calibration, calibrationValid k = true) ∧
    strapValid c.strap0 = true ∧ strapValid c.strap1 = true ∧ oneSpeedSource c.rights = true ∧
    ranksValid c.ranks = true ∧ (subscriptionValid c.subscriptions.chassis = true ∧
      subscriptionValid c.subscriptions.cab = true ∧
      subscriptionValid c.subscriptions.panel = true) ∧
    c.rows.length = 12 ∧ programmablesValid 12 c.rows = true := by
  simp only [configValid, Bool.and_eq_true, decide_eq_true_eq, List.all_eq_true, and_assoc]

/-- The parts' words of a valid configuration give it back. -/
theorem configFields_imageWords {c : WorkingConfig} (h : configValid c = true) :
    configFields (imageWords c) c.fillItems c.rows = c := by
  rw [configValid_iff] at h
  obtain ⟨hgains, hgov, hfixed, htank0, htank1, htol, htiming, hrates, -, hscan, ⟨hcalLength, hcal⟩,
    hstrap0, hstrap1, -, hranks, ⟨hsub1, hsub2, hsub3⟩, -, -⟩ := h
  have hpart : ∀ (k : Nat) (h : k < imageParts.length), imagePart (imageWords c) k =
      partWords c imageParts[k].1 imageParts[k].2 := imagePart_imageWords c
  have hcalibration : [11, 12, 13, 14, 15, 16, 17, 18].map
      (fun k => calibrationOfWords (imagePart (imageWords c) k)) = c.calibration := by
    rw [← calibration_readBack hcalLength hcal]
    simp only [List.map_cons, List.map_nil]
    rw [hpart 11 (by decide), hpart 12 (by decide), hpart 13 (by decide), hpart 14 (by decide),
      hpart 15 (by decide), hpart 16 (by decide), hpart 17 (by decide), hpart 18 (by decide)]
    rfl
  have htable0 : [19, 20, 21].flatMap (fun k => pointsOfWords (imagePart (imageWords c) k)) =
      c.strap0 := by
    rw [← strap_readBack hstrap0]
    simp only [List.flatMap_cons, List.flatMap_nil]
    rw [hpart 19 (by decide), hpart 20 (by decide), hpart 21 (by decide)]
    rfl
  have htable1 : [22, 23, 24].flatMap (fun k => pointsOfWords (imagePart (imageWords c) k)) =
      c.strap1 := by
    rw [← strap_readBack hstrap1]
    simp only [List.flatMap_cons, List.flatMap_nil]
    rw [hpart 22 (by decide), hpart 23 (by decide), hpart 24 (by decide)]
    rfl
  unfold configFields
  rw [hcalibration, htable0, htable1, hpart 0 (by decide), hpart 1 (by decide),
    hpart 2 (by decide), hpart 3 (by decide), hpart 4 (by decide), hpart 5 (by decide),
    hpart 6 (by decide), hpart 7 (by decide), hpart 9 (by decide), hpart 10 (by decide),
    hpart 25 (by decide), hpart 26 (by decide)]
  show WorkingConfig.mk (gainsOfWords (partWords c 1 0)) (govDefaultsOfWords (partWords c 2 0))
    (fixedRowItemsOfWords (partWords c 3 0))
    (thresholdsOfWords (sevenWords (thresholdWords c.tank0)))
    (thresholdsOfWords (sevenWords (thresholdWords c.tank1))) (tolerancesOfWords (partWords c 5 0))
    (timingOfWords (partWords c 6 0)) (ratesOfWords (partWords c 7 0)) c.fillItems
    (scanListOfWords (partWords c 9 0) (partWords c 9 1)) c.calibration c.strap0 c.strap1
    (rightsOfWords (partWords c 13 0)) (ranksOfWords (partWords c 13 0))
    (subscriptionsOfWords (partWords c 14 0)) c.rows = c
  rw [gainsOfWords_partWords hgains, govDefaultsOfWords_partWords hgov,
    fixedRowItemsOfWords_partWords hfixed, thresholdsOfWords_thresholdWords htank0,
    thresholdsOfWords_thresholdWords htank1, tolerancesOfWords_partWords htol,
    timingOfWords_partWords htiming, ratesOfWords_partWords hrates, scanListOfWords_partWords hscan,
    rightsOfWords_partWords, ranksOfWords_partWords hranks,
    subscriptionsOfWords_partWords hsub1 hsub2 hsub3]

/-- Settles O17, item by item and row by row. -/
theorem imageReadsBackAsWritten : Obligations.ImageReadsBackAsWritten := by
  unfold Obligations.ImageReadsBackAsWritten
  intro c h
  obtain ⟨-, -, -, -, -, -, -, -, hfill, -, -, -, -, -, -, -, hlength, hrows⟩ :=
    (configValid_iff c).mp h
  have hitem8 : fillItemsOfWords (imagePart (imageWords c) 8) = some c.fillItems := by
    rw [imagePart_imageWords c 8 (by decide)]
    exact fillItemsOfWords_partWords hfill
  have hread : rowsOfWords 12 ((imageWords c).drop 189) = some c.rows := by
    rw [drop_imageWords, ← hlength]
    exact rowsOfWords_rowWords c.rows 12 (by omega) hrows
  simp only [configOfWords, hitem8, hread, configFields_imageWords h, h, beq_self_eq_true,
    Bool.and_self, if_true]

end Sys2Proof.Machine
end

section
/-! No command leaves an invalid working configuration, nor an image that none could have. -/

namespace Sys2Proof.Machine

/-! ### Clamps and checks -/

theorem within_clampNat {lo hi x : Nat} (h : lo ≤ hi) :
    lo ≤ clampNat lo hi x ∧ clampNat lo hi x ≤ hi := by
  unfold clampNat
  split
  · omega
  split <;> omega

theorem gainsValid_clampGains (g : Gains) : gainsValid (clampGains g) = true := by
  simp [gainsValid, clampGains, within_iff, within_clampNat]

theorem govDefaultsValid_clampGovDefaults (g : GovDefaults) :
    govDefaultsValid (clampGovDefaults g) = true := by
  have h1 := le_clampInt (lo := -60) (hi := 200) (x := g.floor) (by decide)
  have h2 := clampInt_le (lo := -60) (hi := 200) (x := g.floor) (by decide)
  simp [govDefaultsValid, clampGovDefaults, within_iff, within_clampNat, h1, h2]

theorem fixedRowItemsValid_clampFixedRows (f : FixedRowItems) :
    fixedRowItemsValid (clampFixedRows f) = true := by
  simp [fixedRowItemsValid, clampFixedRows, within_iff, within_clampNat]

theorem tolerancesValid_clampTolerances (t : Tolerances) :
    tolerancesValid (clampTolerances t) = true := by
  simp [tolerancesValid, clampTolerances, within_iff, within_clampNat]

/-- R99: against valid working thresholds, clamping in word order keeps EMPTY < LOW < FULL. -/
theorem thresholdsValid_clampThresholds {working : TankThresholds} (t : TankThresholds)
    (h : thresholdsValid working = true) : thresholdsValid (clampThresholds working t) = true := by
  simp only [thresholdsValid, Bool.and_eq_true, decide_eq_true_eq, within_iff] at h
  have hempty := within_clampNat (lo := 0) (hi := working.low - 1) (x := t.empty) (by omega)
  have hlow := within_clampNat (lo := clampNat 0 (working.low - 1) t.empty + 1)
    (hi := working.full - 1) (x := t.low) (by omega)
  have hfull := within_clampNat
    (lo := clampNat (clampNat 0 (working.low - 1) t.empty + 1) (working.full - 1) t.low + 1)
    (hi := 65535) (x := t.full) (by omega)
  have hhv := within_clampNat (lo := 0) (hi := 1000) (x := t.hv) (by decide)
  unfold thresholdsValid clampThresholds
  dsimp only
  simp only [Bool.and_eq_true, decide_eq_true_eq, within_iff]
  omega

theorem subscriptionValid_masked (w : Word) :
    subscriptionValid (w &&& subscriptionBits) = true := by
  simp [subscriptionValid, BitVec.and_assoc]

/-! ### Rows -/

theorem boundFits_boundOfWord (source : Source) (w : Word) :
    boundFits source (boundOfWord source w) = true := by
  have h1 := BitVec.le_toInt w
  have h2 := BitVec.toInt_lt (x := w)
  have h3 := w.isLt
  unfold boundFits boundOfWord
  split
  · simp only [Bool.and_eq_true, decide_eq_true_eq]
    omega
  · simp only [Bool.and_eq_true, decide_eq_true_eq]
    omega

/-- A record that words spell has bounds that fit its words. -/
theorem boundFits_of_rowOfWords {ws : List Word} {r : RowRecord} (h : rowOfWords ws = some r) :
    boundFits r.source r.lo = true ∧ boundFits r.source r.hi = true := by
  unfold rowOfWords at h
  split at h
  · split at h
    · cases h
      exact ⟨boundFits_boundOfWord _ _, boundFits_boundOfWord _ _⟩
    · cases h
  · cases h

/-- R63, checks 1 to 3: a record that WRITE_ROW takes is valid for its row. -/
theorem programmableValid_of_rowOfArguments {args : List Word} {r : RowRecord}
    (h : rowOfArguments args = some r) : programmableValid (argAt args 0) r = true := by
  unfold rowOfArguments at h
  split at h
  · cases h
  next r' hwords =>
  split at h
  · next hvalid =>
    cases h
    obtain ⟨hlo, hhi⟩ := boundFits_of_rowOfWords hwords
    simp [programmableValid, hvalid, hlo, hhi]
  · cases h

theorem programmablesValid_replaceAt {r : RowRecord} :
    ∀ (rows : List RowRecord) (index j : Nat), programmablesValid index rows = true →
      programmableValid (index + j) r = true → programmablesValid index (replaceAt rows j r) = true
  | [], _, _, h, _ => h
  | x :: rest, index, 0, h, hr => by
    simp only [programmablesValid, Bool.and_eq_true] at h
    simp only [replaceAt, programmablesValid, Bool.and_eq_true]
    exact ⟨hr, h.2⟩
  | x :: rest, index, j + 1, h, hr => by
    simp only [programmablesValid, Bool.and_eq_true] at h
    simp only [replaceAt, programmablesValid, Bool.and_eq_true]
    exact ⟨h.1, programmablesValid_replaceAt rest (index + 1) j h.2
      (by rw [Nat.add_right_comm]; exact hr)⟩

/-! ### Writes -/

section Written

variable {c c' : WorkingConfig}

/-- R157: a tuning write leaves a valid configuration valid, every value clamped. -/
theorem configValid_tunedBy (item part : Nat) (ws : List Word) (h : configValid c = true) :
    configValid (tunedBy c item part ws).1 = true := by
  rw [configValid_iff] at h ⊢
  obtain ⟨h1, h2, h3, h4, h4', h5, hrest⟩ := h
  unfold tunedBy
  split
  · exact ⟨gainsValid_clampGains _, h2, h3, h4, h4', h5, hrest⟩
  · exact ⟨h1, govDefaultsValid_clampGovDefaults _, h3, h4, h4', h5, hrest⟩
  · exact ⟨h1, h2, fixedRowItemsValid_clampFixedRows _, h4, h4', h5, hrest⟩
  · split
    · exact ⟨h1, h2, h3, thresholdsValid_clampThresholds _ h4, h4', h5, hrest⟩
    · exact ⟨h1, h2, h3, h4, thresholdsValid_clampThresholds _ h4', h5, hrest⟩
  · exact ⟨h1, h2, h3, h4, h4', tolerancesValid_clampTolerances _, hrest⟩
  · exact ⟨h1, h2, h3, h4, h4', h5, hrest⟩

/-- A calibration record replaced by a valid one. -/
theorem calibration_replaceAt {l : List Calibration} {k : Calibration} (part : Nat)
    (hl : l.length = 8 ∧ ∀ x ∈ l, calibrationValid x = true) (hk : calibrationValid k = true) :
    (replaceAt l part k).length = 8 ∧ ∀ x ∈ replaceAt l part k, calibrationValid x = true := by
  rw [replaceAt_eq_set, List.length_set]
  refine ⟨hl.1, fun x hx => ?_⟩
  rcases List.mem_or_eq_of_mem_set hx with hx | rfl
  · exact hl.2 x hx
  · exact hk

/-- R157: a structural write that passes its checks leaves a valid configuration valid. -/
theorem configValid_structuredBy {item part : Nat} {ws : List Word} (h : configValid c = true)
    (hw : structuredBy c item part ws = some c') : configValid c' = true := by
  rw [configValid_iff] at h ⊢
  obtain ⟨h1, h2, h3, h4, h4', h5, h6, h7, h8, h9, h10, h11, h12, h13, hranks, h14, hrows⟩ := h
  unfold structuredBy at hw
  split at hw
  · split at hw
    · next hv =>
      cases hw
      exact ⟨h1, h2, h3, h4, h4', h5, hv, h7, h8, h9, h10, h11, h12, h13, hranks, h14, hrows⟩
    · cases hw
  · split at hw
    · next hv =>
      cases hw
      exact ⟨h1, h2, h3, h4, h4', h5, h6, hv, h8, h9, h10, h11, h12, h13, hranks, h14, hrows⟩
    · cases hw
  · split at hw
    · cases hw
    split at hw
    · next hv =>
      cases hw
      exact ⟨h1, h2, h3, h4, h4', h5, h6, h7, hv, h9, h10, h11, h12, h13, hranks, h14, hrows⟩
    · cases hw
  · split at hw
    · next hv =>
      cases hw
      exact ⟨h1, h2, h3, h4, h4', h5, h6, h7, h8, h9, calibration_replaceAt part h10 hv, h11, h12,
        h13, hranks, h14, hrows⟩
    · cases hw
  · split at hw
    · next hv =>
      cases hw
      rw [Bool.and_eq_true] at hv
      exact ⟨h1, h2, h3, h4, h4', h5, h6, h7, h8, h9, h10, h11, h12, hv.1, hv.2, h14, hrows⟩
    · cases hw
  · cases hw
    exact ⟨h1, h2, h3, h4, h4', h5, h6, h7, h8, h9, h10, h11, h12, h13, hranks,
      ⟨subscriptionValid_masked _, subscriptionValid_masked _, subscriptionValid_masked _⟩, hrows⟩
  · cases hw

/-- R158: a completed item leaves a valid configuration valid. -/
theorem configValid_completedBy {item : Nat} {parts : List (List Word)} (h : configValid c = true)
    (hw : completedBy c item parts = some c') : configValid c' = true := by
  rw [configValid_iff] at h ⊢
  obtain ⟨h1, h2, h3, h4, h4', h5, h6, h7, h8, h9, h10, h11, h12, hrest⟩ := h
  unfold completedBy at hw
  dsimp only at hw
  split at hw
  · split at hw
    · next hv =>
      cases hw
      exact ⟨h1, h2, h3, h4, h4', h5, h6, h7, h8, hv, h10, h11, h12, hrest⟩
    · cases hw
  · split at hw
    · next hv =>
      cases hw
      split
      · exact ⟨h1, h2, h3, h4, h4', h5, h6, h7, h8, h9, h10, hv, h12, hrest⟩
      · exact ⟨h1, h2, h3, h4, h4', h5, h6, h7, h8, h9, h10, h11, hv, hrest⟩
    · cases hw

theorem WrittenFrom.configValid (hw : WrittenFrom c c') (h : configValid c = true) :
    configValid c' = true := by
  rcases hw with ⟨item, part, ws, rfl⟩ | ⟨item, part, ws, hw⟩ | ⟨item, parts, hw⟩
  · exact configValid_tunedBy item part ws h
  · exact configValid_structuredBy h hw
  · exact configValid_completedBy h hw

/-- R65: so does a row written anew. -/
theorem configValid_rows {i : Nat} {r : RowRecord} (h : configValid c = true) (hi : 12 ≤ i)
    (hr : programmableValid i r = true) :
    configValid { c with rows := replaceAt c.rows (i - 12) r } = true := by
  rw [configValid_iff] at h ⊢
  obtain ⟨h1, h2, h3, h4, h4', h5, h6, h7, h8, h9, h10, h11, h12, h13, hranks, h14, hlength,
    hrows⟩ := h
  refine ⟨h1, h2, h3, h4, h4', h5, h6, h7, h8, h9, h10, h11, h12, h13, hranks, h14, ?_, ?_⟩
  · rw [replaceAt_length, hlength]
  · exact programmablesValid_replaceAt _ _ _ hrows (by rw [Nat.add_sub_cancel' hi]; exact hr)

end Written

theorem configValid_factory : configValid factory = true := by decide +kernel

/-! ### The configuration through a step -/

section Config

variable {s t : State}

/-- Where no configuration is held the factory values stand in, and they are valid. -/
theorem ConfigSound.conf (h : ConfigSound s) : configValid (conf s) = true := by
  unfold Machine.conf
  cases hw : s.cfg.working with
  | none => exact configValid_factory
  | some c => exact h c hw

theorem ConfigSound.of_working (h : ConfigSound s) (ht : t.cfg.working = s.cfg.working) :
    ConfigSound t := by
  unfold ConfigSound
  rw [ht]
  exact h

theorem ImageSound.of_image (h : ImageSound s) (ht : t.cfg.image = s.cfg.image) : ImageSound t := by
  unfold ImageSound
  rw [ht]
  exact h

theorem configSound_applyWrite {c : WorkingConfig} (h : configValid c = true) :
    ConfigSound (applyWrite c s) := by
  intro c' hc
  rw [cfg_applyWrite] at hc
  cases hc
  exact h

theorem configSound_rewriteRow {i : Nat} {r : RowRecord} (h : ConfigSound s) (hi : 12 ≤ i)
    (hr : programmableValid i r = true) : ConfigSound (rewriteRow i r s) := by
  intro c hc
  rw [working_rewriteRow] at hc
  simp only [Option.mem_def, Option.map_eq_some_iff] at hc
  obtain ⟨c0, hc0, rfl⟩ := hc
  exact configValid_rows (h c0 hc0) hi hr

theorem configSound_effectOf (c : Instr) (hc : startsPart c = false) (h : ConfigSound s) :
    ConfigSound (effectOf c s) := by
  by_cases hr : ∃ w p, c = .writeRow w p
  · obtain ⟨w, p, rfl⟩ := hr
    refine request_keeps ConfigSound h (fun _ _ h => h) fun args => ?_
    rcases decideWriteRow_cases p args s with heq | ⟨r, hargs, hi, -, heq⟩ <;> rw [heq]
    · exact h
    · exact configSound_rewriteRow h hi (programmableValid_of_rowOfArguments hargs)
  by_cases hw : ∃ w p, c = .writeConfig w p
  · obtain ⟨w, p, rfl⟩ := hw
    exact request_keeps ConfigSound h (fun _ _ h => h) fun args =>
      decideWriteConfig_keeps ConfigSound p args h (fun _ _ h => h) fun c s hc h =>
        configSound_applyWrite (hc.configValid h.conf)
  · exact h.of_working (working_effectOf hc (fun w p he => hr ⟨w, p, he⟩)
      (fun w p he => hw ⟨w, p, he⟩))

/-- R160: the image changes at a store and at its end alone. -/
theorem image_effectOf {c : Instr} (hc : startsPart c = false) (hs : ∀ w p, c ≠ .storeConfig w p)
    (he : ∀ w flaws, c = .storeEnd w flaws → flaws = []) :
    (effectOf c s).cfg.image = s.cfg.image := by
  cases c with
  | supplyStart | resetLine | resetLineRelease | startUpLoadEnd => cases hc
  | storeConfig w p => exact absurd rfl (hs w p)
  | storeEnd w flaws =>
    cases he w flaws rfl
    refine whenDue_keeps (fun t => t.cfg.image = s.cfg.image) rfl fun _ => ?_
    unfold finishStore
    dsimp only
    split <;> rfl
  | writeRow w p =>
    refine request_keeps (fun t => t.cfg.image = s.cfg.image) rfl (fun _ _ h => h) fun args => ?_
    rcases decideWriteRow_cases p args s with heq | ⟨r, -, -, -, heq⟩ <;> rw [heq]
    rw [working_rewriteRow]
  | writeConfig w p =>
    exact request_keeps (fun t => t.cfg.image = s.cfg.image) rfl (fun _ _ h => h) fun args =>
      decideWriteConfig_keeps (fun t => t.cfg.image = s.cfg.image) p args rfl (fun _ _ h => h)
        fun c s _ h => by rw [cfg_applyWrite]; exact h
  | _ => rw [(sameBut_effectOf _ s hc).cfg (by simp [touches])]

theorem imageSound_beginStore (h : ConfigSound s) : ImageSound (beginStore s) := by
  intro _
  show (configOfWords (imageWords (Machine.conf s))).isSome = true
  rw [imageReadsBackAsWritten _ h.conf]
  rfl

theorem imageSound_decideStoreConfig (p : Port) (args : List Word) (hi : ImageSound s)
    (h : ConfigSound s) : ImageSound (decideStoreConfig p args s).1 := by
  unfold decideStoreConfig
  split
  · exact hi
  split
  · exact hi
  · exact imageSound_beginStore h

theorem imageSound_effectOf (c : Instr) (hc : startsPart c = false) (hi : ImageSound s)
    (h : ConfigSound s) (he : ∀ w flaws, c = .storeEnd w flaws → flaws = []) :
    ImageSound (effectOf c s) := by
  by_cases hs : ∃ w p, c = .storeConfig w p
  · obtain ⟨w, p, rfl⟩ := hs
    exact request_keeps ImageSound hi (fun _ _ h => h) fun args =>
      imageSound_decideStoreConfig p args hi h
  · exact hi.of_image (image_effectOf hc (fun w p he => hs ⟨w, p, he⟩) he)

/-- R162: the configuration loaded is valid. -/
theorem configValid_loadedConfig (h : ImageSound s) :
    configValid (loadedConfig s.cfg.image) = true := by
  unfold loadedConfig
  split
  · next hg =>
    obtain ⟨c, hc⟩ := Option.isSome_iff_exists.mp (h hg)
    rw [configOfImage_of_configOfWords hc]
    unfold configOfWords at hc
    split at hc
    · dsimp only at hc
      split at hc
      · next hv =>
        cases hc
        rw [Bool.and_eq_true] at hv
        exact hv.1
      · cases hc
    · cases hc
  · exact configValid_factory

/-- R162: CFG at the end of the load. -/
theorem cfg_loadEnd (lines : Levels) (s : State) :
    (loadEnd lines s).cfg = { s.cfg with
      working := some (loadedConfig s.cfg.image), configInvalid := !imageGood s.cfg.image } := by
  have h : ∀ x, (placeTable x).cfg = x.cfg := fun x =>
    (SameBut.of_besideLkt (besideLkt_placeTable x)).cfg (by decide)
  rw [loadEnd, h]
  simp only [startScan_cfg, startPwm_cfg, startGate_cfg, startInputs, loadRecords, loadConfig]
  split <;> rfl

/-- R161, R163: a reset leaves no image that checks good which was not one. -/
theorem imageSound_resetTo (phase : Phase) (cause : ResetCause) (h : ImageSound s) :
    ImageSound (resetTo phase cause s) := by
  intro hg
  simp only [resetTo, freshState, imageAtReset] at hg ⊢
  split at hg
  · simp [imageGood] at hg
  · next hb =>
    rw [if_neg hb]
    exact h hg

theorem configSound_loadEnd (lines : Levels) (h : ImageSound s) :
    ConfigSound (loadEnd lines s) := by
  intro c hc
  rw [cfg_loadEnd] at hc
  cases hc
  exact configValid_loadedConfig h

/-- What a command's own effect makes of a valid configuration and a sound image. -/
theorem configSound_of_effect (c : Instr) (hi : ImageSound s) (h : ConfigSound s) :
    ConfigSound (effectOf c s) ∧
      ((∀ w flaws, c = .storeEnd w flaws → flaws = []) → ImageSound (effectOf c s)) := by
  by_cases hc : startsPart c = false
  · exact ⟨configSound_effectOf c hc h, imageSound_effectOf c hc hi h⟩
  · exact startsPart_gives (fun t => ConfigSound t ∧ (_ → ImageSound t)) hc ⟨h, fun _ => hi⟩
      (fun phase cause _ => ⟨(fun c hc => by cases hc), fun _ => imageSound_resetTo _ _ hi⟩)
      (fun _ => ⟨h, fun _ => hi⟩)
      (fun lines _ => ⟨configSound_loadEnd lines hi,
        fun _ => hi.of_image (by rw [cfg_loadEnd])⟩)

end Config

theorem cfg_deliver (g : Handover) (s : State) : (deliver g s).cfg = s.cfg :=
  (sameBut_deliver g s).cfg (by cases g <;> simp [path])

/-- A property that holds before a step's command, is kept by what comes before it, and gives with
the command's effect another that the hand-overs after it keep. -/
theorem step_gives (P P' : State → Prop)
    (hqueue : ∀ s rest, P s → P { s with pending := rest })
    (htime : ∀ dt s, P s → P (advance dt s))
    (hhand : ∀ (h : Handover) (s : State), P s → P (deliver h s))
    (hrest : ∀ s rest, P s → P { s with hand := rest })
    (hhand' : ∀ (h : Handover) (s : State), P' s → P' (deliver h s))
    (hrest' : ∀ s rest, P' s → P' { s with hand := rest })
    {s t : State} (hs : P s) (h : step s = .next t) (hnone : ∀ u, P u → P' u)
    (heffect : ∀ c rest u, s.pending = c :: rest → P u → P' (effectOf c u)) : P' t := by
  have hpass : ∀ dt u, P u → P (pass dt u) := fun dt u hu =>
    pass_induct P htime (fun g rest u hu _ _ => hhand g _ (hrest u rest hu)) dt u hu
  rcases step_cases h with ⟨-, rfl⟩ | ⟨c, rest, hp, h⟩
  · exact hnone _ (hpass _ _ hs)
  · rw [exec_next h]
    exact takeHandovers_induct P' (fun g rest u hu _ _ => hhand' g _ (hrest' u rest hu)) _ _
      (heffect c rest _ hp (hpass _ _ (hqueue _ _ hs)))

/-- Settles O15. -/
theorem stepKeepsTheConfigurationValid : Obligations.StepKeepsTheConfigurationValid := by
  unfold Obligations.StepKeepsTheConfigurationValid
  intro s t hi hc h
  have hcfg : ∀ {u v : State}, v.cfg = u.cfg → ImageSound u ∧ ConfigSound u →
      ImageSound v ∧ ConfigSound v := fun heq hu =>
    ⟨hu.1.of_image (congrArg CfgUnit.image heq), hu.2.of_working (congrArg CfgUnit.working heq)⟩
  refine ⟨?_, fun hflaws => ?_⟩
  · exact step_gives (fun s => ImageSound s ∧ ConfigSound s) ConfigSound (fun _ _ h => h)
      (fun dt s h => hcfg (advance_cfg dt s) h) (fun g s h => hcfg (cfg_deliver g s) h)
      (fun _ _ h => h) (fun g s h => h.of_working (by rw [cfg_deliver])) (fun _ _ h => h) ⟨hi, hc⟩ h
      (fun _ h => h.2) (fun c rest u _ h => (configSound_of_effect c h.1 h.2).1)
  · exact step_gives (fun s => ImageSound s ∧ ConfigSound s) ImageSound (fun _ _ h => h)
      (fun dt s h => hcfg (advance_cfg dt s) h) (fun g s h => hcfg (cfg_deliver g s) h)
      (fun _ _ h => h) (fun g s h => h.of_image (by rw [cfg_deliver])) (fun _ _ h => h) ⟨hi, hc⟩ h
      (fun _ h => h.1) (fun c rest u hp h => (configSound_of_effect c h.1 h.2).2
        fun w flaws he => hflaws w flaws rest (he ▸ hp))

end Sys2Proof.Machine
end

section
/-! The table lock and the lockout table stay sound. -/

namespace Sys2Proof.Machine

/-! ### The table lock -/

section Lock

variable {s t : State}

theorem lock_handleRows (ev : RowEvent) (s : State) : (handleRows ev s).lkt.lock = s.lkt.lock := by
  obtain ⟨-, -, -, hlock⟩ := handleRows_lkt ev s
  exact hlock

theorem lock_deliver (g : Handover) (s : State) : (deliver g s).lkt.lock = s.lkt.lock := by
  cases g with
  | arrival sender x v =>
    dsimp only [deliver, lktTakesArrival]
    rw [lock_handleRows, takeValue]
  | modeToLkt m =>
    dsimp only [deliver, lktTakesMode]
    rw [lock_handleRows]
  | _ => rw [(sameBut_deliver _ s).lkt (by simp [path])]

theorem LockSound.of_eq (h : LockSound s) (hl : t.lkt.lock = s.lkt.lock) (hp : t.phase = s.phase)
    (hr : (conf t).rights = (conf s).rights) : LockSound t := by
  unfold LockSound portHolds
  rw [hl, hp, hr]
  exact h

theorem LockSound.of_cfg (h : LockSound s) (hl : t.lkt.lock = s.lkt.lock) (hp : t.phase = s.phase)
    (hc : t.cfg.working = s.cfg.working) : LockSound t :=
  h.of_eq hl hp (by rw [conf, conf, hc])

/-- R67: a write ends with the lock freed of a holder that has lost CONFIG. -/
theorem applyWrite_eq (c : WorkingConfig) (s : State) :
    ∃ u, SameBut [.cfg, .gov, .tnk, .spd] s u ∧ conf u = c ∧
      applyWrite c s = if c.rights = (conf s).rights then u else freeLostLock u := by
  have hsub : SameBut [.gov, .tnk, .spd] { s with cfg := { s.cfg with working := some c } } _ :=
    sameBut_ite (c := speedSourceOf c.rights = speedSourceOf (conf s).rights)
      (sameBut_ite (c := c.rates.reportInterval = (conf s).rates.reportInterval)
        (sameBut_ite (c := c.tank0.full = (conf s).tank0.full)
          (sameBut_ite (c := c.gains.ceiling = (conf s).gains.ceiling) (.refl _ _)
            fun x => (SameBut.of_besideGov (besideGov_govTakesCeiling x)).mono (by decide))
          fun x => (SameBut.of_besideTnk (besideTnk_tnkTakesFull x)).mono (by decide))
        fun x => (sameBut_spdTakesInterval x).mono (by decide))
      fun x => (sameBut_spdTakesMove x).mono (by decide)
  exact ⟨_, ((sameBut_cfg s _).mono (by decide)).trans (hsub.mono (by decide)),
    conf_of_cfg (hsub.cfg (by decide)), rfl⟩

theorem lockSound_freeLostLock (s : State) : LockSound (freeLostLock s) := by
  intro q hq _
  unfold freeLostLock at hq ⊢
  split at hq
  · next hnone =>
    rw [hnone] at hq
    cases hq
  · next q' hsome =>
    split at hq
    · next hholds =>
      cases hsome.symm.trans hq
      rw [if_pos hholds]
      exact hholds
    · cases hq

theorem lockSound_applyWrite (c : WorkingConfig) (h : LockSound s) :
    LockSound (applyWrite c s) := by
  obtain ⟨u, hu, hc, heq⟩ := applyWrite_eq c s
  rw [heq]
  split
  · next hr => exact h.of_eq (by rw [hu.lkt (by decide)]) hu.phase (by rw [hc, hr])
  · exact lockSound_freeLostLock u

/-- R66: the lock is given to a port that has CONFIG, or freed. -/
theorem lockSound_lock (p : Port) (own : Nat) {holder : Option Port}
    (hh : holder = some p ∨ holder = none) (h : LockSound s) :
    LockSound (whenRunning (serveLock p own holder) s) := by
  refine whenRunning_keeps LockSound _ h fun _ => ?_
  unfold serveLock
  split
  · exact h
  split
  · refine serve_keeps LockSound h fun args _ => ?_
    suffices hd : LockSound (decideLock p own holder args s).1 from hd
    unfold decideLock
    split
    · exact h
    next hconfig =>
    split
    · exact h
    split
    · exact h
    · intro q hq _
      rw [Bool.not_eq_true, Bool.not_eq_false'] at hconfig
      rcases hh with rfl | rfl
      · cases hq
        exact hconfig
      · cases hq
  · exact h

theorem lock_rewriteRow (i : Nat) (r : RowRecord) (s : State) :
    (rewriteRow i r s).lkt.lock = s.lkt.lock := by
  rw [rewriteRow, lock_handleRows]

theorem rights_rewriteRow (i : Nat) (r : RowRecord) (s : State) :
    (conf (rewriteRow i r s)).rights = (conf s).rights := by
  rw [conf, working_rewriteRow, conf]
  cases s.cfg.working <;> rfl

theorem lock_decideAckRow (p : Port) (args : List Word) (s : State) :
    (decideAckRow p args s).1.lkt.lock = s.lkt.lock := by
  unfold decideAckRow
  split
  · rfl
  split
  · rfl
  split
  · dsimp only
    rw [lock_handleRows]
  all_goals rfl

theorem lockSound_effectOf (c : Instr) (hc : startsPart c = false) (h : LockSound s) :
    LockSound (effectOf c s) := by
  have hphase := (sameBut_effectOf c s hc).phase
  cases c with
  | supplyStart | resetLine | resetLineRelease | startUpLoadEnd => cases hc
  | lockTableSet w p => exact lockSound_lock p _ (.inl rfl) h
  | lockTableClear w p => exact lockSound_lock p _ (.inr rfl) h
  | holdTimerExpiry w row =>
    exact h.of_cfg (whenDue_keeps (fun t => t.lkt.lock = s.lkt.lock) rfl fun _ =>
      lock_handleRows _ _) hphase (working_effectOf hc (by simp) (by simp))
  | ackRow w p =>
    exact h.of_cfg (request_keeps (fun t => t.lkt.lock = s.lkt.lock) rfl (fun _ _ h => h)
      fun args => lock_decideAckRow p args s) hphase (working_effectOf hc (by simp) (by simp))
  | writeRow w p =>
    refine request_keeps LockSound h (fun _ _ h => h) fun args => ?_
    rcases decideWriteRow_cases p args s with heq | ⟨r, -, -, -, heq⟩ <;> rw [heq]
    · exact h
    · refine h.of_eq (lock_rewriteRow _ _ _) ?_ (rights_rewriteRow _ _ _)
      rw [rewriteRow, (SameBut.of_besideLkt (besideLkt_handleRows _ _)).phase]
  | writeConfig w p =>
    exact request_keeps LockSound h (fun _ _ h => h) fun args =>
      decideWriteConfig_keeps LockSound p args h (fun _ _ h => h) fun c _ _ h =>
        lockSound_applyWrite c h
  | _ =>
    exact h.of_cfg (by rw [(sameBut_effectOf _ s hc).lkt (by simp [touches])]) hphase
      (working_effectOf hc (by simp) (by simp))

end Lock

theorem lock_placeTable (s : State) : (placeTable s).lkt.lock = s.lkt.lock := by
  obtain ⟨-, -, -, hlock⟩ := deriveBlocks_rows (treatRows .placeAll s)
  rw [placeTable, hlock, treatRows_eq, midway_frame]

/-- The end of the load leaves the table lock as it was. -/
theorem lock_loadEnd (lines : Levels) (s : State) : (loadEnd lines s).lkt.lock = s.lkt.lock := by
  rw [loadEnd, lock_placeTable]
  simp only [startScan_lkt, startPwm_lkt, startGate_lkt, startInputs, loadRecords, loadConfig]
  split <;> rfl

/-- Settles O10. -/
theorem stepKeepsTheLockWithAConfigHolder : Obligations.StepKeepsTheLockWithAConfigHolder := by
  unfold Obligations.StepKeepsTheLockWithAConfigHolder
  intro s t hheld hs h
  refine step_keeps_held LockSound (fun _ _ h => h)
    (fun dt s h => h.of_cfg (by rw [advance_lkt]) (advance_phase dt s) (by rw [advance_cfg]))
    (fun g s h => h.of_cfg (lock_deliver g s) (phase_deliver g s) (by rw [cfg_deliver]))
    (fun _ _ h => h) (fun phase cause s _ q hq => by cases hq)
    (fun s _ _ q _ hrun => by cases hrun) (fun lines s hp hh q hq => ?_)
    (fun c s hc h => lockSound_effectOf c hc h) hheld hs h
  obtain ⟨-, hlkt, -⟩ := hh (by simp [hp])
  rw [lock_loadEnd, hlkt] at hq
  cases hq

/-! ### The lockout table -/

section Table

variable {s t : State}

/-- R50: a hold timer runs exactly while its row is HOLDING. -/
def SlotSound (x : RowSlot) : Prop := x.timer.isSome = (x.state == .holding)

theorem slotSound_evaluated (s : State) (i : Nat) (r : RowRecord) {x : RowSlot} (h : SlotSound x) :
    SlotSound (evaluated s i r x) := by
  unfold evaluated
  split
  · split
    · split <;> rfl
    · rfl
  · split
    · exact h
    · rfl
  · split
    · exact h
    · split <;> rfl
  all_goals exact h

theorem slotSound_placed (s : State) (i : Nat) (r : RowRecord) : SlotSound (placed s i r) := by
  unfold placed
  split
  · rfl
  split
  · exact slotSound_evaluated s i r rfl
  · split
    · exact slotSound_evaluated s i r rfl
    · rfl

theorem slotSound_atModeChange (s : State) (i : Nat) (r : RowRecord) {x : RowSlot}
    (h : SlotSound x) : SlotSound (atModeChange s i r x) := by
  unfold atModeChange
  split
  · split
    · exact slotSound_placed s i r
    all_goals exact slotSound_evaluated s i r h
  · split
    · split <;> rfl
    · rfl
    · rfl
    · rfl
    · rfl
    · exact h

theorem slotSound_afterPrecursor (before : List RowSlot) (s : State) (i : Nat) (r : RowRecord)
    {x : RowSlot} (h : SlotSound x) : SlotSound (afterPrecursor before s i r x) := by
  unfold afterPrecursor
  split
  · exact h
  split
  · unfold precursorLeft
    split
    · rfl
    · rfl
    · split <;> rfl
    all_goals exact h
  · unfold precursorCame
    split
    · exact slotSound_placed s i r
    all_goals exact h
  · exact h

theorem slotSound_atEvent (ev : RowEvent) (s : State) (i : Nat) (r : RowRecord) {x : RowSlot}
    (h : SlotSound x) : SlotSound (atEvent ev s i r x) := by
  unfold atEvent
  split
  · split
    · exact slotSound_evaluated s i r h
    · exact h
  · split
    · rfl
    · exact h
  · exact slotSound_atModeChange s i r h
  · split
    · exact slotSound_placed s i r
    · exact h
  · exact slotSound_placed s i r

theorem slotSound_rowSlot (h : ∀ x ∈ s.lkt.rows, SlotSound x) (i : Nat) :
    SlotSound (rowSlot s i) := by
  unfold rowSlot
  rw [List.getD_eq_getElem?_getD]
  cases hx : s.lkt.rows[i]? with
  | none => rfl
  | some x => exact h x (List.mem_of_getElem? hx)

/-- The rows' turns keep every slot sound. -/
theorem slotSound_midway (ev : RowEvent) (h : ∀ x ∈ s.lkt.rows, SlotSound x) (n : Nat) :
    ∀ x ∈ (midway ev s n).lkt.rows, SlotSound x := by
  induction n with
  | zero => exact h
  | succ n ih =>
    intro x hx
    rw [midway_succ, treatRow, replaceAt_eq_set] at hx
    rcases List.mem_or_eq_of_mem_set hx with hx | rfl
    · exact ih x hx
    · exact slotSound_atEvent _ _ _ _ (slotSound_afterPrecursor _ _ _ _ (slotSound_rowSlot ih n))

/-- R56: the block set depends on the rows' states and blocks alone. -/
theorem derivedBlocks_congr (hr : t.lkt.rows = s.lkt.rows)
    (hb : ∀ i < 24, (rowRecord (conf t) i).blocks = (rowRecord (conf s) i).blocks) :
    derivedBlocks t = derivedBlocks s := by
  refine BitVec.eq_of_getLsbD_eq fun n _ => ?_
  rw [Bool.eq_iff_iff, derivedBlocks_getLsbD, derivedBlocks_getLsbD]
  constructor
  · rintro ⟨i, hi, heffect, hbit⟩
    exact ⟨i, hi, by rwa [rowSlot, ← hr], by rwa [← hb i hi]⟩
  · rintro ⟨i, hi, heffect, hbit⟩
    exact ⟨i, hi, by rwa [rowSlot, hr], by rwa [hb i hi]⟩

theorem LktSound.of_eq (h : LktSound s) (hl : t.lkt = s.lkt)
    (hb : ∀ i < 24, (rowRecord (conf t) i).blocks = (rowRecord (conf s) i).blocks) :
    LktSound t := by
  obtain ⟨hrows, hsources, htimers, hblocks, hpermit⟩ := h
  have hder := derivedBlocks_congr (by rw [hl]) hb
  unfold LktSound fillActive sourceSlot
  rw [hl, hder]
  exact ⟨hrows, hsources, htimers, hblocks, hpermit⟩

/-- What the end of a handling gives, its rows and sources being sound. -/
theorem lktSound_deriveBlocks (hrows : s.lkt.rows.length = 24)
    (hsources : s.lkt.sources.length = 17) (htimers : ∀ x ∈ s.lkt.rows, SlotSound x) :
    LktSound (deriveBlocks s) := by
  rw [deriveBlocks_eq]
  refine ⟨hrows, hsources, htimers, ?_, rfl⟩
  exact (derivedBlocks_congr rfl fun _ _ => rfl).symm

theorem lktSound_handleRows (ev : RowEvent) (hrows : s.lkt.rows.length = 24)
    (hsources : s.lkt.sources.length = 17) (htimers : ∀ x ∈ s.lkt.rows, SlotSound x) :
    LktSound (handleRows ev s) := by
  unfold handleRows
  rw [noticeRows_frame, treatRows_eq]
  refine lktSound_deriveBlocks ?_ ?_ ?_
  · exact (midway_length ev s 24).trans hrows
  · rw [midway_frame]
    exact hsources
  · exact slotSound_midway ev htimers 24

theorem lktSound_placeTable (hrows : s.lkt.rows.length = 24) (hsources : s.lkt.sources.length = 17)
    (htimers : ∀ x ∈ s.lkt.rows, SlotSound x) : LktSound (placeTable s) := by
  unfold placeTable
  rw [treatRows_eq]
  refine lktSound_deriveBlocks ?_ ?_ ?_
  · exact (midway_length .placeAll s 24).trans hrows
  · rw [midway_frame]
    exact hsources
  · exact slotSound_midway .placeAll htimers 24

/-- Every handling of rows and sources as they stood in a sound table ends in a sound one. -/
theorem LktSound.handled (h : LktSound s) (ev : RowEvent) {u : State}
    (hrows : u.lkt.rows = s.lkt.rows) (hsources : u.lkt.sources.length = s.lkt.sources.length) :
    LktSound (handleRows ev u) := by
  obtain ⟨hlength, hcount, htimers, -⟩ := h
  exact lktSound_handleRows ev (by rw [hrows, hlength]) (hsources.trans hcount)
    (by rwa [hrows])

theorem lktSound_deliver (g : Handover) (h : LktSound s) : LktSound (deliver g s) := by
  cases g with
  | arrival sender x v =>
    dsimp only [deliver, lktTakesArrival]
    exact h.handled (.arrival x) rfl (replaceAt_length _ _ _)
  | modeToLkt m =>
    dsimp only [deliver, lktTakesMode]
    exact h.handled .modeChange rfl rfl
  | _ =>
    exact h.of_eq ((sameBut_deliver _ s).lkt (by simp [path]))
      fun i _ => by rw [conf_of_cfg (cfg_deliver _ s)]

/-- R59: what of a fixed row's record the items of R60 do not set. -/
theorem fixedRecord_congr (f f' : FixedRowItems) {i : Nat} (hi : i < 12) :
    (fixedRecord f i).blocks = (fixedRecord f' i).blocks ∧
      (fixedRecord f i).enable = (fixedRecord f' i).enable ∧
      (fixedRecord f i).mask = (fixedRecord f' i).mask ∧
      (fixedRecord f i).precursor = (fixedRecord f' i).precursor := by
  interval_cases i <;> exact ⟨rfl, rfl, rfl, rfl⟩

/-- No WRITE_CONFIG changes a row's record but for the items of R60. -/
theorem WrittenFrom.rows {c c' : WorkingConfig} (h : WrittenFrom c c') : c'.rows = c.rows := by
  rcases h with ⟨item, part, ws, rfl⟩ | ⟨item, part, ws, hw⟩ | ⟨item, parts, hw⟩
  · unfold tunedBy
    split
    · rfl
    · rfl
    · rfl
    · split <;> rfl
    · rfl
    · rfl
  · unfold structuredBy at hw
    repeat' split at hw
    all_goals first
      | cases hw; rfl
      | cases hw
  · unfold completedBy at hw
    dsimp only at hw
    repeat' split at hw
    all_goals cases hw
    all_goals rfl

theorem rowRecord_congr {c c' : WorkingConfig} (h : c'.rows = c.rows) (i : Nat) :
    (rowRecord c' i).blocks = (rowRecord c i).blocks ∧
      (rowRecord c' i).enable = (rowRecord c i).enable ∧
      (rowRecord c' i).mask = (rowRecord c i).mask ∧
      (rowRecord c' i).precursor = (rowRecord c i).precursor := by
  unfold rowRecord
  split
  · next hi => exact fixedRecord_congr _ _ hi
  · rw [h]
    exact ⟨rfl, rfl, rfl, rfl⟩

theorem lktSound_lock (x : Option Port) (h : LktSound s) :
    LktSound { s with lkt := { s.lkt with lock := x } } := by
  obtain ⟨hrows, hsources, htimers, hblocks, hpermit⟩ := h
  exact ⟨hrows, hsources, htimers, hblocks.trans (derivedBlocks_congr rfl fun _ _ => rfl), hpermit⟩

theorem lktSound_freeLostLock (h : LktSound s) : LktSound (freeLostLock s) := by
  unfold freeLostLock
  split
  · exact h
  split
  · exact h
  · exact lktSound_lock none h

theorem lktSound_applyWrite {c : WorkingConfig} (hc : WrittenFrom (conf s) c) (h : LktSound s) :
    LktSound (applyWrite c s) := by
  obtain ⟨u, hu, hconf, heq⟩ := applyWrite_eq c s
  have hu : LktSound u := h.of_eq (hu.lkt (by decide)) fun i _ => by
    rw [hconf]
    exact (rowRecord_congr hc.rows i).1
  rw [heq]
  split
  · exact hu
  · exact lktSound_freeLostLock hu

theorem lktSound_decideAckRow (p : Port) (args : List Word) (h : LktSound s) :
    LktSound (decideAckRow p args s).1 := by
  unfold decideAckRow
  split
  · exact h
  split
  · exact h
  split
  · dsimp only
    exact h.handled (.place (argAt args 0)) rfl rfl
  all_goals exact h

theorem lktSound_serveLock (p : Port) (own : Nat) (holder : Option Port) (h : LktSound s) :
    LktSound (whenRunning (serveLock p own holder) s) := by
  refine whenRunning_keeps LktSound _ h fun _ => ?_
  unfold serveLock
  split
  · exact h
  split
  · refine serve_keeps LktSound h fun args _ => ?_
    suffices hd : LktSound (decideLock p own holder args s).1 from hd
    unfold decideLock
    split
    · exact h
    split
    · exact h
    split
    · exact h
    · exact lktSound_lock holder h
  · exact h

theorem lktSound_effectOf (c : Instr) (hc : startsPart c = false) (h : LktSound s) :
    LktSound (effectOf c s) := by
  cases c with
  | supplyStart | resetLine | resetLineRelease | startUpLoadEnd => cases hc
  | lockTableSet w p => exact lktSound_serveLock _ _ _ h
  | lockTableClear w p => exact lktSound_serveLock _ _ _ h
  | holdTimerExpiry w row =>
    exact whenDue_keeps LktSound h fun _ => h.handled _ rfl rfl
  | ackRow w p =>
    exact request_keeps LktSound h (fun _ _ h => h) fun args => lktSound_decideAckRow p args h
  | writeRow w p =>
    refine request_keeps LktSound h (fun _ _ h => h) fun args => ?_
    rcases decideWriteRow_cases p args s with heq | ⟨r, -, -, -, heq⟩ <;> rw [heq]
    · exact h
    · rw [rewriteRow]
      exact h.handled _ rfl rfl
  | writeConfig w p =>
    exact request_keeps LktSound h (fun _ _ h => h) fun args =>
      decideWriteConfig_keeps LktSound p args h (fun _ _ h => h) fun c _ hc h =>
        lktSound_applyWrite hc h
  | _ =>
    exact h.of_eq ((sameBut_effectOf _ s hc).lkt (by simp [touches]))
      fun i _ => by rw [conf, conf, working_effectOf hc (by simp) (by simp)]

theorem lkt_loadConfig (s : State) : (loadConfig s).lkt = s.lkt := by
  unfold loadConfig
  split <;> rfl

theorem lkt_loadRecords (s : State) :
    (loadRecords s).lkt = { s.lkt with
      sources := resetSources (conf s).fillItems.supplyDefault s.cfg.configInvalid } := rfl

theorem lktSound_loadEnd (lines : Levels) (h : LktSound s) : LktSound (loadEnd lines s) := by
  obtain ⟨hrows, -, htimers, -⟩ := h
  have hlkt := lkt_loadRecords (loadConfig s)
  rw [lkt_loadConfig] at hlkt
  rw [loadEnd]
  refine lktSound_placeTable ?_ ?_ ?_ <;>
    rw [startScan_lkt, startPwm_lkt, startGate_lkt, startInputs, hlkt]
  · exact hrows
  · rfl
  · exact htimers

theorem rowSlot_resetTo (phase : Phase) (cause : ResetCause) (s : State) (i : Nat) :
    rowSlot (resetTo phase cause s) i = ⟨.off, none⟩ := by
  have hx : ∀ x ∈ (resetTo phase cause s).lkt.rows, x = ⟨.off, none⟩ :=
    fun x hx => List.eq_of_mem_replicate hx
  rw [rowSlot, List.getD_eq_getElem?_getD]
  cases hi : (resetTo phase cause s).lkt.rows[i]? with
  | none => rfl
  | some x => exact hx x (List.mem_of_getElem? hi)

theorem lktSound_resetTo (phase : Phase) (cause : ResetCause) (s : State) :
    LktSound (resetTo phase cause s) := by
  refine ⟨rfl, rfl, fun x hx => ?_, ?_, rfl⟩
  · rw [List.eq_of_mem_replicate hx]
    rfl
  · refine BitVec.eq_of_getLsbD_eq fun n _ => ?_
    symm
    rw [Bool.eq_iff_iff, derivedBlocks_getLsbD]
    constructor
    · rintro ⟨i, -, heffect, -⟩
      rw [rowSlot_resetTo] at heffect
      rcases heffect with h | h <;> cases h
    · intro h
      simp [resetTo, freshState, resetLkt] at h

end Table

end Sys2Proof.Machine
end

section
/-! The copies of mode, block set, supply and fill agree. -/

namespace Sys2Proof.Machine

section Copies

variable {s t : State}

theorem agree_due {c : State → Prop} [∀ s, Decidable (c s)] {f : State → State}
    (h : (copies s).Agree) (hf : (copies (f s)).Agree) :
    (copies (whenRunning (fun s => if c s then f s else s) s)).Agree :=
  whenDue_keeps (fun s => (copies s).Agree) h fun _ => hf

/-- An effect that leaves the copies as they are. -/
theorem agree_kept {f : State → State} (h : (copies s).Agree) (hf : ∀ s, copies (f s) = copies s) :
    (copies (whenRunning f s)).Agree :=
  whenRunning_keeps (fun s => (copies s).Agree) _ h fun _ => agree_of_eq (hf s) h

theorem agree_request {p : Port} {kind : RequestKind}
    {decide_ : List Word → State → State × Result × List Word} (h : (copies s).Agree)
    (hd : ∀ args, (copies (decide_ args s).1).Agree) :
    (copies (whenRunning (serve p kind decide_) s)).Agree :=
  request_keeps (fun s => (copies s).Agree) h (fun _ _ h => h) hd

theorem agree_modeRequest {p : Port} {own : Nat} {needsRoll : Bool}
    {decide_ : State → State × Result} (h : (copies s).Agree)
    (hd : (copies (decide_ s).1).Agree) :
    (copies (whenRunning (serveMode p own needsRoll decide_) s)).Agree :=
  whenRunning_keeps (fun s => (copies s).Agree) _ h fun _ =>
    serveMode_keeps (fun s => (copies s).Agree) h (fun _ _ h => h) hd

/-! ### The operation requests -/

theorem agree_openRequest_superseded (p : Port) (k : OperationKind) (n : Nat)
    (h : (copies s).Agree) : (copies (openRequest p k (postOutcome .superseded n s))).Agree := by
  rwa [copies_openRequest, copies_postOutcome]

theorem agree_decideEngage (p : Port) (h : (copies s).Agree) :
    (copies (decideEngage p s).1).Agree := by
  unfold decideEngage
  split
  · exact h
  split
  case h_4 =>
    split
    · exact h
    · exact agree_startShift p h
  case h_5 =>
    unfold engageInShift
    split
    · exact h
    split
    · exact agree_openRequest_superseded p _ _ h
    · exact h
  all_goals exact h

theorem agree_decideRoll (h : (copies s).Agree) : (copies (decideRoll s).1).Agree := by
  unfold decideRoll
  split
  · exact h
  split
  · exact h
  split
  · exact agree_actOnPtoBlock (agree_transition _ _ _ h)
  · exact h

theorem agree_decideStopRoll (h : (copies s).Agree) : (copies (decideStopRoll s).1).Agree := by
  unfold decideStopRoll
  split
  · exact agree_actOnPtoBlock (agree_transition _ _ _ h)
  · exact h

theorem agree_decideDisengage (p : Port) (h : (copies s).Agree) :
    (copies (decideDisengage p s).1).Agree := by
  have hopen : (copies (openRequest p .disengage s)).Agree := by rwa [copies_openRequest]
  unfold decideDisengage
  split
  case h_5 => exact agree_enterRelease _ (agree_openRequest_superseded p _ _ h)
  case h_6 => exact agree_enterSpinDown _ hopen
  case h_7 => exact agree_enterSpinDown _ hopen
  case h_8 =>
    unfold takeDisengage
    split
    · exact hopen
    split
    · exact h
    · exact agree_openRequest_superseded p _ _ h
  all_goals exact h

/-! ### The requests to the other units -/

theorem copies_setGovernor (p : Port) (args : List Word) (s : State) :
    copies (decideSetGovernor p args s).1 = copies s := by
  have happly : ∀ x sp sn, copies (applyGovernor x sp sn s) = copies s := by
    intro x sp sn
    refine copies_gov s _ ?_ ?_ ?_ <;> cases x <;> simp only [setGoverning] <;>
      split <;> rfl
  unfold decideSetGovernor
  split
  · rfl
  split
  · rfl
  split
  · rfl
  · exact happly _ _ _

theorem agree_decideSelectSupply (p : Port) (args : List Word) (h : (copies s).Agree) :
    (copies (decideSelectSupply p args s).1).Agree := by
  unfold decideSelectSupply
  split
  · exact h
  split
  · exact h
  · exact agree_changeSupply _ h

theorem agree_decideFillStart (p : Port) (args : List Word) (h : (copies s).Agree) :
    (copies (decideFillStart p args s).1).Agree := by
  unfold decideFillStart
  dsimp only
  iterate 6
    split
    · exact h
  exact agree_openFill p _ h

theorem agree_decideFillStop (p : Port) (args : List Word) (h : (copies s).Agree) :
    (copies (decideFillStop p args s).1).Agree := by
  unfold decideFillStop
  split
  · exact h
  · exact agree_endFill _ _ h

theorem agree_decideAckRow (p : Port) (args : List Word) (h : (copies s).Agree) :
    (copies (decideAckRow p args s).1).Agree := by
  unfold decideAckRow
  split
  · exact h
  split
  · exact h
  split
  · dsimp only
    exact agree_handleRows _ h
  all_goals exact h

theorem copies_decideReportSpeed (p : Port) (args : List Word) (s : State) :
    copies (decideReportSpeed p args s).1 = copies s := by
  rcases decideReportSpeed_cases p args s with heq | ⟨x, engine, heq⟩ <;> rw [heq]
  exact copies_recomputeSpeed _ _ _

theorem copies_decidePostNote (p : Port) (args : List Word) (s : State) :
    copies (decidePostNote p args s).1 = copies s := by
  unfold decidePostNote
  split
  · rfl
  split
  · exact copies_post _ _ _ _ _ _
  · rfl

theorem copies_decideStoreConfig (p : Port) (args : List Word) (s : State) :
    copies (decideStoreConfig p args s).1 = copies s := by
  unfold decideStoreConfig
  split
  · rfl
  · split <;> rfl

theorem copies_finishStore (flaws : List (Nat × Word)) (s : State) :
    copies (finishStore flaws s) = copies s := by
  unfold finishStore
  dsimp only
  rw [copies_post]
  split
  · rfl
  · exact copies_arrive _ _ _ (by decide) (by decide)

theorem copies_spdTakesInterval (s : State) : copies (spdTakesInterval s) = copies s := by
  unfold spdTakesInterval
  split
  · split
    · exact copies_recomputeSpeed _ _ _
    · rfl
  all_goals rfl

theorem copies_spdTakesMove (s : State) : copies (spdTakesMove s) = copies s := by
  unfold spdTakesMove
  split
  · exact copies_recomputeSpeed _ _ _
  · rfl

theorem copies_freeLostLock (s : State) : copies (freeLostLock s) = copies s := by
  unfold freeLostLock
  split
  · rfl
  · split <;> rfl

theorem copies_unless {c : Prop} [Decidable c] {f : State → State}
    (hf : ∀ s, copies (f s) = copies s) (s : State) :
    copies (if c then s else f s) = copies s := by
  split
  · rfl
  · exact hf s

theorem copies_applyWrite (c : WorkingConfig) (s : State) :
    copies (applyWrite c s) = copies s := by
  unfold applyWrite
  dsimp only
  rw [copies_unless copies_freeLostLock, copies_unless copies_spdTakesMove,
    copies_unless copies_spdTakesInterval, copies_unless copies_tnkTakesFull,
    copies_unless copies_govTakesCeiling]
  rfl

theorem copies_acceptInput (i : DiscreteInput) (s : State) :
    copies (acceptInput i s) = copies s := by
  unfold acceptInput
  dsimp only
  split
  · exact copies_publishWord _
  · rfl

theorem copies_completeConversion (n : Nat) (rest : List Nat) (code : Nat) (s : State) :
    copies (completeConversion n rest code s) = copies s := by
  unfold completeConversion
  dsimp only
  split
  · exact copies_takeCode _ _ _
  · rfl

theorem copies_serveLock (p : Port) (own : Nat) (holder : Option Port) (s : State) :
    copies (serveLock p own holder s) = copies s := by
  unfold serveLock
  split
  · rfl
  split
  · refine serve_keeps (fun t => copies t = copies s) rfl fun args _ => ?_
    suffices hd : copies (decideLock p own holder args s).1 = copies s from hd
    unfold decideLock setLock refuse
    repeat' split
    all_goals rfl
  · rfl

/-! ### Every command -/

theorem agree_effectOf (c : Instr) (hc : startsPart c = false) (h : (copies s).Agree) :
    (copies (effectOf c s)).Agree := by
  cases c with
  | supplyStart | resetLine | resetLineRelease | startUpLoadEnd => cases hc
  | startUpWaitExpiry w => exact agree_due h (agree_leaveInit h)
  | settleIntervalExpiry w => exact agree_due h (agree_of_eq (copies_publishWord _) h)
  | stabilityTimerExpiry w i => exact agree_due h (agree_of_eq (copies_acceptInput i s) h)
  | tachEdge w => exact agree_kept h fun s => copies_publishPump _
  | silenceTimerExpiry w => exact agree_due h (agree_of_eq (copies_publishPump _) h)
  | gateEnd w =>
    refine agree_kept h fun s => ?_
    split
    · rfl
    split
    · exact copies_recomputeSpeed _ _ _
    · rfl
  | conversionCompletion w code =>
    refine agree_kept h fun s => ?_
    split
    · rfl
    split
    · exact copies_completeConversion _ _ _ _
    · rfl
  | throttlePwmPeriodStart w =>
    refine agree_kept h fun s => ?_
    split
    · rfl
    · split <;> rfl
  | scanPeriodExpiry w => exact agree_due h h
  | roadPulseEdge w => exact agree_kept h fun _ => rfl
  | inputSample w lines => exact agree_kept h fun _ => rfl
  | selectFall w p =>
    dsimp only [effectOf]
    split
    · split
      · exact h
      · exact h
    · exact h
  | selectRise w p part => exact h
  | answerCompletion w p => exact h
  | wordCompletion w p word => exact h
  | readStatus w p =>
    exact agree_request h fun args => by rw [decideReadStatus_state]; exact h
  | readRow w p => exact agree_request h fun args => by rw [decideReadRow_state]; exact h
  | readConfig w p => exact agree_request h fun args => by rw [decideReadConfig_state]; exact h
  | readNotice w p => exact agree_request h fun args => h
  | readResetCause w p => exact agree_request h fun args => h
  | reportSpeed w p =>
    exact agree_request h fun args => agree_of_eq (copies_decideReportSpeed p args s) h
  | engage w p => exact agree_modeRequest h (agree_decideEngage p h)
  | roll w p => exact agree_modeRequest h (agree_decideRoll h)
  | stopRoll w p => exact agree_modeRequest h (agree_decideStopRoll h)
  | disengage w p => exact agree_modeRequest h (agree_decideDisengage p h)
  | setGovernor w p =>
    exact agree_request h fun args => agree_of_eq (copies_setGovernor p args s) h
  | selectSupply w p => exact agree_request h fun args => agree_decideSelectSupply p args h
  | fillStart w p => exact agree_request h fun args => agree_decideFillStart p args h
  | fillStop w p => exact agree_request h fun args => agree_decideFillStop p args h
  | ackRow w p => exact agree_request h fun args => agree_decideAckRow p args h
  | writeRow w p =>
    refine agree_request h fun args => ?_
    rcases decideWriteRow_cases p args s with heq | ⟨r, -, -, -, heq⟩ <;> rw [heq]
    · exact h
    · exact agree_handleRows _ h
  | lockTableSet w p => exact agree_kept h (copies_serveLock p _ _)
  | lockTableClear w p => exact agree_kept h (copies_serveLock p _ _)
  | writeConfig w p =>
    exact agree_request h fun args => decideWriteConfig_keeps (fun s => (copies s).Agree) p args h
      (fun _ _ h => h) fun c s _ h => agree_of_eq (copies_applyWrite c s) h
  | storeConfig w p =>
    exact agree_request h fun args => agree_of_eq (copies_decideStoreConfig p args s) h
  | storeEnd w flaws => exact agree_due h (agree_of_eq (copies_finishStore flaws s) h)
  | postNote w p =>
    exact agree_request h fun args => agree_of_eq (copies_decidePostNote p args s) h
  | shiftTimerExpiry w => exact agree_due h (agree_expireShift h)
  | spinDownLimitExpiry w => exact agree_due h (agree_enterRelease _ h)
  | releaseTimerExpiry w =>
    refine agree_due h ?_
    rw [failRelease, copies_closeRequest]
    exact agree_transition _ _ _ h
  | holdTimerExpiry w row => exact agree_due h (agree_handleRows _ h)
  | fillTimeoutExpiry w => exact agree_due h (agree_endFill _ _ h)
  | stallWindowExpiry w => exact agree_due h (agree_endFill _ _ h)
  | staleTimerExpiry w => exact agree_due h (agree_of_eq (copies_recomputeSpeed _ _ _) h)
  | disagreementTimerExpiry w => exact agree_due h (agree_of_eq (copies_recomputeSpeed _ _ _) h)

theorem agree_resetTo (phase : Phase) (cause : ResetCause) (s : State) :
    (copies (resetTo phase cause s)).Agree :=
  ⟨rfl, rfl, rfl, rfl, rfl, rfl, rfl, rfl, rfl, rfl, rfl⟩

theorem copies_started (lines : Levels) (s : State) :
    copies (startScan (startPwm (startGate (startInputs lines s)))) = copies s := rfl

/-- At the end of the load the copies of the supply are the configured one, and the other records
are at their reset values, which agree. -/
theorem agree_loadEnd (lines : Levels) (hload : s.phase = .loading) (h : HeldSound s) :
    (copies (loadEnd lines s)).Agree := by
  obtain ⟨hseq, hlkt, hgov, htnk, -, -, -, -, -, hhand, -⟩ := h (by simp [hload])
  rw [loadEnd]
  refine agree_placeTable (agree_of_eq (copies_started _ _) ?_)
  unfold loadRecords loadConfig
  split <;>
    simp only [copies, sourceSlot, Copies.Agree, addCauseAll_seq, addCauseAll_lkt, addCauseAll_gov,
      addCauseAll_tnk, addCauseAll_hand, hseq, hlkt, hgov, htnk, hhand, awaited_nil] <;>
    exact ⟨rfl, rfl, rfl, rfl, rfl, rfl, trivial, rfl, rfl, rfl, rfl⟩

end Copies

theorem heldSound_startsPart {c : Instr} {s : State} (hc : startsPart c ≠ false)
    (h : HeldSound s) : HeldSound (effectOf c s) :=
  startsPart_gives HeldSound hc h (fun _ _ _ => heldSound_resetTo _ _ s)
    (fun hp => heldSound_release h hp) (fun _ _ => .of_running (phase_loadEnd _ _))

theorem agree_startsPart {c : Instr} {s : State} (hc : startsPart c ≠ false) (hh : HeldSound s)
    (h : (copies s).Agree) : (copies (effectOf c s)).Agree :=
  startsPart_gives (fun s => (copies s).Agree) hc h (fun _ _ _ => agree_resetTo _ _ s)
    (fun _ => h) (fun lines hp => agree_loadEnd lines hp hh)

/-- The copies are their own whatever the queue and the time. -/
theorem copies_advance (dt : Nat) (s : State) : copies (advance dt s) = copies s := by
  simp only [copies, sourceSlot, advance_seq, advance_lkt, advance_gov, advance_tnk, advance_hand]

/-- Settles O8.  A table stays sound by its own handlings; the copies agree by the order in which
each unit takes what another hands it (`agree_deliver`). -/
theorem stepKeepsTheLockoutTableSound : Obligations.StepKeepsTheLockoutTableSound := by
  unfold Obligations.StepKeepsTheLockoutTableSound
  refine ⟨fun s t hs h => ?_, fun s t hheld hs h => ?_⟩
  · refine step_keeps_sorted LktSound (fun _ _ h => h) (fun dt s h => ?_)
      (fun g rest s h _ _ => lktSound_deliver g h) (fun phase cause s _ _ => lktSound_resetTo _ _ s)
      (fun _ _ h => h) (fun lines s _ h => lktSound_loadEnd lines h)
      (fun c s hc h => lktSound_effectOf c hc h) hs h
    exact h.of_eq (advance_lkt dt s) fun i _ => by rw [conf_of_cfg (advance_cfg dt s)]
  · refine (step_keeps_in_order (fun s => HeldSound s ∧ (copies s).Agree) (fun _ _ h => h)
      (fun dt s h => ⟨heldSound_advance dt h.1, agree_of_eq (copies_advance dt s) h.2⟩)
      (fun g mid tail s h heq hp => ⟨?_, agree_deliver h.2 heq hp⟩) (fun c s h => ?_)
      ⟨hheld, hs⟩ h).2
    · exact heldSound_taken h.1 (by simp [heq]) _
    · by_cases hc : startsPart c = false
      · exact ⟨heldSound_effectOf hc h.1, agree_effectOf c hc h.2⟩
      · exact ⟨heldSound_startsPart hc h.1, agree_startsPart hc h.1 h.2⟩

end Sys2Proof.Machine
end

section
/-! Every row's state is one that its record, the mode and its precursor allow. -/

namespace Sys2Proof.Machine

section Rows

variable {s t u : State}

/-! ### What a state asks of a row -/

/-- Section 3.4: a row's state as `off`, "takes part" and "its precursor lets it act" allow it. -/
def StateFits (off takes act : Prop) : RowState → Prop
  | .off => off
  | .wait => takes ∧ ¬act
  | .clear | .holding | .active => takes ∧ act
  | .latched => True

/-- R47: the row with this record is enabled and its mask holds the mode. -/
def TakesPart (s : State) (r : RowRecord) : Prop :=
  r.enable = true ∧ inMask r.mask s.lkt.mode = true

/-- R47, R54: the row's precursor, if it names one, is in effect among these slots. -/
def MayAct (rows : List RowSlot) (r : RowRecord) : Prop :=
  ∀ p ∈ r.precursor, inEffect (rows.getD p ⟨.off, none⟩).state = true

/-- The row with this record and slot fits its record, the mode and its precursor. -/
def SlotFits (s : State) (r : RowRecord) (x : RowSlot) : Prop :=
  StateFits (¬TakesPart s r) (TakesPart s r) (MayAct s.lkt.rows r) x.state

/-- `StateFits`, kept folded: a table of 24 rows is not to be evaluated to see what it says. -/
structure Fits (off takes act : Prop) (x : RowState) : Prop where
  admits : StateFits off takes act x

/-- Section 3.4, for row `i`. -/
def RowFit (s : State) (i : Nat) : Prop :=
  Fits (¬TakesPart s (rowRecord (conf s) i)) (TakesPart s (rowRecord (conf s) i))
    (MayAct s.lkt.rows (rowRecord (conf s) i)) (rowSlot s i).state

theorem rowFit_iff (s : State) (i : Nat) :
    RowFit s i ↔ SlotFits s (rowRecord (conf s) i) (rowSlot s i) :=
  ⟨fun h => h.admits, fun h => ⟨h⟩⟩

/-- Section 3.4, for every row, once the table has been placed. -/
def RowsFit (s : State) : Prop := s.phase = .running → ∀ i < 24, RowFit s i

theorem rowFits_iff (s : State) (i : Nat) : RowFits s i ↔ RowFit s i := by
  rw [rowFit_iff]
  unfold RowFits SlotFits
  cases (rowSlot s i).state <;> rfl

theorem rowsSound_iff (s : State) : RowsSound s ↔ RowsFit s :=
  forall_congr' fun _ => forall₂_congr fun i _ => rowFits_iff s i

/-- What a row fits by depends on the mode, on what its precursor is, and on its record. -/
theorem RowFit.congr {i : Nat} (h : RowFit s i) (hrows : t.lkt.rows = s.lkt.rows)
    (hmode : t.lkt.mode = s.lkt.mode)
    (henable : (rowRecord (conf t) i).enable = (rowRecord (conf s) i).enable)
    (hmask : (rowRecord (conf t) i).mask = (rowRecord (conf s) i).mask)
    (hprec : (rowRecord (conf t) i).precursor = (rowRecord (conf s) i).precursor) :
    RowFit t i := by
  unfold RowFit TakesPart MayAct rowSlot at h ⊢
  rw [hrows, hmode, henable, hmask, hprec]
  exact h

/-! ### What a row's turn does -/

section Turn

variable {off takes act : Prop} {r : RowRecord} {x : RowSlot}

/-- An evaluation keeps a row in the states that the same conditions allow. -/
theorem stateFits_evaluated (s : State) (i : Nat) (h : StateFits off takes act x.state) :
    StateFits off takes act (evaluated s i r x).state := by
  unfold evaluated
  split
  · next hx =>
    rw [hx] at h
    repeat' split
    all_goals exact h
  · next hx =>
    rw [hx] at h
    split
    · rw [hx]
      exact h
    · exact h
  · next hx =>
    rw [hx] at h
    split
    · rw [hx]
      exact h
    · split
      · exact True.intro
      · exact h
  all_goals exact h

theorem slotFits_placed (s : State) (i : Nat) (r : RowRecord) : SlotFits s r (placed s i r) := by
  unfold placed
  split
  · next hout =>
    rintro ⟨henable, hmask⟩
    simp [henable, hmask] at hout
  next hin =>
  have htakes : TakesPart s r := by
    simp only [Bool.or_eq_true, Bool.not_eq_true', not_or, Bool.not_eq_false] at hin
    exact hin
  split
  · next hnone =>
    exact stateFits_evaluated s i ⟨htakes, fun p hp => by simp [hnone] at hp⟩
  next p hsome =>
  split
  · next hp =>
    refine stateFits_evaluated s i ⟨htakes, fun q hq => ?_⟩
    rw [hsome] at hq
    cases hq
    exact hp
  · next hp => exact ⟨htakes, fun h => hp (h p hsome)⟩

/-- R54: a row that fitted with its precursor in effect fits without once it has left it. -/
theorem stateFits_precursorLeft {act' : Prop} (hact : act) (hact' : ¬act')
    (h : StateFits off takes act x.state) :
    StateFits off takes act' (precursorLeft r x).state := by
  unfold precursorLeft
  split
  · next hx => rw [hx] at h; exact ⟨h.1, hact'⟩
  · next hx => rw [hx] at h; exact ⟨h.1, hact'⟩
  · next hx =>
    rw [hx] at h
    split
    · exact True.intro
    · exact ⟨h.1, hact'⟩
  · next hx => rw [hx] at h; exact absurd hact h.2
  · next hx => rw [hx] at h ⊢; exact h
  · next hx => rw [hx]; exact True.intro

/-- R54: a row that fitted with its precursor out of effect fits once it has come into it, as its
placement does. -/
theorem stateFits_precursorCame {act' : Prop} {i : Nat} (hact : ¬act)
    (h : StateFits off takes act x.state)
    (hplaced : StateFits off takes act' (placed s i r).state) :
    StateFits off takes act' (precursorCame s i r x).state := by
  unfold precursorCame
  split
  · exact hplaced
  · next hx => rw [hx] at h ⊢; exact h
  · next hx => rw [hx] at h; exact absurd h.2 hact
  · next hx => rw [hx] at h; exact absurd h.2 hact
  · next hx => rw [hx] at h; exact absurd h.2 hact
  · next hx => rw [hx]; exact True.intro

/-- R54: what a change of its precursor gives a row fits what the precursor now is. -/
theorem stateFits_afterPrecursor {before : List RowSlot} {i : Nat}
    (h : StateFits off takes (MayAct before r) x.state)
    (hplaced : StateFits off takes (MayAct s.lkt.rows r) (placed s i r).state) :
    StateFits off takes (MayAct s.lkt.rows r) (afterPrecursor before s i r x).state := by
  unfold afterPrecursor
  split
  · next hnone =>
    have hact : ∀ rows, MayAct rows r ↔ True := fun rows =>
      iff_true_intro fun p hp => by simp [hnone] at hp
    rw [hact] at h ⊢
    exact h
  next p hsome =>
  have hbefore : MayAct before r ↔ inEffect (before.getD p ⟨.off, none⟩).state = true := by
    simp [MayAct, hsome]
  have hnow : MayAct s.lkt.rows r ↔ inEffect (rowSlot s p).state = true := by
    simp [MayAct, hsome, rowSlot]
  rw [hbefore] at h
  rw [hnow] at hplaced ⊢
  generalize inEffect (before.getD p ⟨.off, none⟩).state = b at h
  generalize inEffect (rowSlot s p).state = n at hplaced
  match b, n with
  | true, false => exact stateFits_precursorLeft rfl Bool.false_ne_true h
  | false, true => exact stateFits_precursorCame Bool.false_ne_true h hplaced
  | true, true => exact h
  | false, false => exact h

/-- What a row keeps of its fitting when the mode changes under it. -/
theorem StateFits.half (h : StateFits off (TakesPart s r) act x.state) :
    StateFits True (r.enable = true) act x.state := by
  cases hx : x.state <;> rw [hx] at h
  · exact True.intro
  · exact ⟨h.1.1, h.2⟩
  · exact ⟨h.1.1, h.2⟩
  · exact ⟨h.1.1, h.2⟩
  · exact ⟨h.1.1, h.2⟩
  · exact True.intro

/-- R53: a mode transition makes a row fit the new mode. -/
theorem slotFits_atModeChange (i : Nat)
    (h : StateFits True (r.enable = true) (MayAct s.lkt.rows r) x.state) :
    SlotFits s r (atModeChange s i r x) := by
  unfold atModeChange
  split
  · next hmask =>
    have hstays : x.state ≠ .off → SlotFits s r (evaluated s i r x) := by
      intro hoff
      refine stateFits_evaluated s i ?_
      cases hx : x.state <;> rw [hx] at h
      · exact absurd hx hoff
      · exact ⟨⟨h.1, hmask⟩, h.2⟩
      · exact ⟨⟨h.1, hmask⟩, h.2⟩
      · exact ⟨⟨h.1, hmask⟩, h.2⟩
      · exact ⟨⟨h.1, hmask⟩, h.2⟩
      · exact True.intro
    split
    · exact slotFits_placed s i r
    all_goals next hx => exact hstays (by simp [hx])
  · next hmask =>
    have hout : ¬TakesPart s r := fun ht => hmask ht.2
    split
    · split
      · exact True.intro
      · exact hout
    · exact hout
    · exact hout
    · exact hout
    · exact hout
    · next hx =>
      unfold SlotFits
      rw [hx]
      exact True.intro

/-- What row `i` must be before its turn in a handling. -/
def Ready (s : State) (i : Nat) : RowEvent → Prop
  | .arrival _ | .expiry _ => RowFit s i
  | .modeChange => StateFits True ((rowRecord (conf s) i).enable = true)
      (MayAct s.lkt.rows (rowRecord (conf s) i)) (rowSlot s i).state
  | .place row => i = row ∨ RowFit s i
  | .placeAll => True

end Turn

theorem mode_handleRows (ev : RowEvent) (s : State) :
    (handleRows ev s).lkt.mode = s.lkt.mode :=
  (handleRows_lkt ev s).2.2.1

theorem conf_handleRows (ev : RowEvent) (s : State) : conf (handleRows ev s) = conf s :=
  conf_of_cfg ((SameBut.of_besideLkt (besideLkt_handleRows ev s)).cfg (by decide))

theorem mayAct_midway (ev : RowEvent) {i : Nat} (hi : i < 24) (hl : s.lkt.rows.length = 24)
    {r : RowRecord} (hp : ∀ p ∈ r.precursor, p < i) :
    MayAct (midway ev s i).lkt.rows r ↔ MayAct (handleRows ev s).lkt.rows r := by
  unfold MayAct
  refine forall₂_congr fun p hsome => ?_
  have h := rowSlot_midway ev s i p hi hl
  rw [if_pos (hp p hsome), rowSlot, rowSlot] at h
  rw [h]

/-- A row fits at the end of a handling as it did at the end of its turn. -/
theorem RowFit.of_turn {ev : RowEvent} {i : Nat} {x : RowSlot} (hi : i < 24)
    (hl : s.lkt.rows.length = 24) (hp : ∀ p ∈ (rowRecord (conf s) i).precursor, p < i)
    (hx : rowSlot (handleRows ev s) i = x)
    (h : SlotFits (midway ev s i) (rowRecord (conf s) i) x) : RowFit (handleRows ev s) i := by
  have hmid : (midway ev s i).lkt.mode = s.lkt.mode := by rw [midway_frame]
  unfold SlotFits TakesPart at h
  rw [hmid, mayAct_midway ev hi hl hp] at h
  unfold RowFit TakesPart
  rw [hx, conf_handleRows, mode_handleRows]
  exact ⟨h⟩

/-- Every row fits after a handling that finds it ready, the precursors standing below. -/
theorem rowFits_handleRows (ev : RowEvent) {i : Nat} (hi : i < 24) (hl : s.lkt.rows.length = 24)
    (hp : ∀ p ∈ (rowRecord (conf s) i).precursor, p < i) (h : Ready s i ev) :
    RowFit (handleRows ev s) i := by
  refine .of_turn hi hl hp (rowSlot_handleRows ev s i hi hl) ?_
  have hplaced := slotFits_placed (midway ev s i) i (rowRecord (conf s) i)
  have hafter : RowFit s i → SlotFits (midway ev s i) (rowRecord (conf s) i)
      (afterPrecursor s.lkt.rows (midway ev s i) i (rowRecord (conf s) i) (rowSlot s i)) := by
    intro h
    refine stateFits_afterPrecursor ?_ hplaced
    have h := h.admits
    unfold TakesPart at h ⊢
    rw [midway_frame]
    exact h
  cases ev with
  | arrival x =>
    dsimp only [atEvent]
    split
    · exact stateFits_evaluated _ _ (hafter h)
    · exact hafter h
  | expiry row =>
    dsimp only [atEvent]
    split
    · next hrow =>
      have h := hafter h
      unfold SlotFits at h
      rw [hrow.2] at h
      exact h
    · exact hafter h
  | modeChange => exact slotFits_atModeChange i (stateFits_afterPrecursor h hplaced.half)
  | place row =>
    dsimp only [atEvent]
    split
    · exact hplaced
    · next hne => exact hafter (h.resolve_left hne)
  | placeAll => exact hplaced

/-! ### The precursors stand below their rows -/

theorem precursor_of_programmablesValid {n : Nat} {l : List RowRecord}
    (h : programmablesValid n l = true) (k : Nat) :
    ∀ p ∈ (l.getD k factoryRow).precursor, p < n + k := by
  induction l generalizing n k with
  | nil => intro p hp; simp [factoryRow] at hp
  | cons r l ih =>
    rw [programmablesValid, Bool.and_eq_true] at h
    obtain ⟨hr, hl⟩ := h
    cases k with
    | zero =>
      intro p hp
      rw [List.getD_cons_zero, Option.mem_def] at hp
      simp only [programmableValid, rowValid, Bool.and_eq_true, hp, decide_eq_true_eq] at hr
      exact hr.1.1.2
    | succ k =>
      rw [List.getD_cons_succ]
      intro p hp
      have := ih hl k p hp
      omega

theorem precursor_below {c : WorkingConfig} (h : configValid c = true) {i : Nat} (hi : i < 24) :
    ∀ p ∈ (rowRecord c i).precursor, p < i := by
  unfold rowRecord
  split
  · intro p hp
    interval_cases i <;> simp only [fixedRecord] at hp <;> cases hp
    decide
  · next hge =>
    rw [configValid_iff] at h
    obtain ⟨-, -, -, -, -, -, -, -, -, -, -, -, -, -, -, -, -, hrows⟩ := h
    intro p hp
    have := precursor_of_programmablesValid hrows (i - 12) p hp
    omega

/-! ### Through a step -/

theorem rowsFit_handleRows (ev : RowEvent) (hc : configValid (conf s) = true)
    (hl : s.lkt.rows.length = 24) (h : s.phase = .running → ∀ i < 24, Ready s i ev) :
    RowsFit (handleRows ev s) := by
  intro hrun i hi
  rw [(SameBut.of_besideLkt (besideLkt_handleRows ev s)).phase] at hrun
  exact rowFits_handleRows ev hi hl (precursor_below hc hi) (h hrun i hi)

theorem RowsFit.of_lkt (h : RowsFit s) (hl : t.lkt = s.lkt) (hp : t.phase = s.phase)
    (hc : conf t = conf s) : RowsFit t := fun hrun i hi =>
  (h (hp.symm.trans hrun) i hi).congr (by rw [hl]) (by rw [hl]) (by rw [hc]) (by rw [hc])
    (by rw [hc])

theorem rowsFit_deliver (g : Handover) (hc : configValid (conf s) = true)
    (hl : s.lkt.rows.length = 24) (h : RowsFit s) : RowsFit (deliver g s) := by
  cases g with
  | arrival sender x v =>
    dsimp only [deliver, lktTakesArrival]
    exact rowsFit_handleRows (.arrival x) hc hl h
  | modeToLkt m =>
    dsimp only [deliver, lktTakesMode]
    refine rowsFit_handleRows .modeChange hc hl fun hrun i hi => ?_
    exact (h hrun i hi).admits.half
  | _ =>
    exact h.of_lkt ((sameBut_deliver _ s).lkt (by simp [path])) (phase_deliver _ s)
      (conf_of_cfg (cfg_deliver _ s))

theorem rowsFit_freeLostLock (h : RowsFit s) : RowsFit (freeLostLock s) := by
  unfold freeLostLock
  split
  · exact h
  split
  · exact h
  · exact fun hrun i hi => (h hrun i hi).congr rfl rfl rfl rfl rfl

theorem rowsFit_applyWrite {c : WorkingConfig} (hw : WrittenFrom (conf s) c)
    (h : RowsFit s) : RowsFit (applyWrite c s) := by
  obtain ⟨u, hu, hconf, heq⟩ := applyWrite_eq c s
  have hsound : RowsFit u := fun hrun i hi => by
    have hlkt := hu.lkt (by decide)
    obtain ⟨-, henable, hmask, hprec⟩ := rowRecord_congr hw.rows i
    exact (h (hu.phase.symm.trans hrun) i hi).congr (by rw [hlkt]) (by rw [hlkt])
      (by rw [hconf, henable]) (by rw [hconf, hmask]) (by rw [hconf, hprec])
  rw [heq]
  split
  · exact hsound
  · exact rowsFit_freeLostLock hsound

theorem rowsFit_lock (x : Option Port) (h : RowsFit s) :
    RowsFit { s with lkt := { s.lkt with lock := x } } :=
  fun hrun i hi => (h hrun i hi).congr rfl rfl rfl rfl rfl

theorem rowsFit_serveLock (p : Port) (own : Nat) (holder : Option Port) (h : RowsFit s) :
    RowsFit (whenRunning (serveLock p own holder) s) := by
  refine whenRunning_keeps RowsFit _ h fun _ => ?_
  unfold serveLock
  split
  · exact h
  split
  · refine serve_keeps RowsFit h fun args _ => ?_
    suffices hd : RowsFit (decideLock p own holder args s).1 from hd
    unfold decideLock
    split
    · exact h
    split
    · exact h
    split
    · exact h
    · exact rowsFit_lock holder h
  · exact h

theorem rowsFit_decideAckRow (p : Port) (args : List Word) (hc : configValid (conf s) = true)
    (hl : s.lkt.rows.length = 24) (h : RowsFit s) : RowsFit (decideAckRow p args s).1 := by
  unfold decideAckRow
  split
  · exact h
  split
  · exact h
  split
  · dsimp only
    exact rowsFit_handleRows _ hc hl fun hrun i hi => .inr (h hrun i hi)
  all_goals exact h

/-- A write of a programmable row leaves the other rows' records as they were. -/
theorem rowRecord_replaced {c : WorkingConfig} {r : RowRecord} {row i : Nat} (hrow : 12 ≤ row)
    (hne : i ≠ row) :
    rowRecord { c with rows := replaceAt c.rows (row - 12) r } i = rowRecord c i := by
  unfold rowRecord
  split
  · rfl
  · rw [replaceAt_getD, if_neg (by omega)]

/-- The state with a programmable row's record replaced (R65). -/
def withRow (row : Nat) (r : RowRecord) (s : State) : State :=
  { s with cfg := { s.cfg with working := s.cfg.working.map fun c =>
      { c with rows := replaceAt c.rows (row - 12) r } } }

theorem rowRecord_written {row i : Nat} (r : RowRecord) (s : State) (hrow : 12 ≤ row)
    (hne : i ≠ row) : rowRecord (conf (withRow row r s)) i = rowRecord (conf s) i := by
  unfold conf withRow
  cases s.cfg.working with
  | none => rfl
  | some c => exact rowRecord_replaced hrow hne

theorem rewriteRow_eq (row : Nat) (r : RowRecord) (s : State) :
    rewriteRow row r s = handleRows (.place row) (withRow row r s) := rfl

theorem rowsFit_rewriteRow {row : Nat} {r : RowRecord} (hc : ConfigSound (rewriteRow row r s))
    (hl : s.lkt.rows.length = 24) (hrow : 12 ≤ row) (h : RowsFit s) :
    RowsFit (rewriteRow row r s) := by
  have hconf := hc.conf
  rw [rewriteRow_eq, conf_handleRows] at hconf
  rw [rewriteRow_eq]
  refine rowsFit_handleRows _ hconf hl fun hrun i hi => ?_
  by_cases hne : i = row
  · exact .inl hne
  · have hrecord := rowRecord_written r s hrow hne
    exact .inr ((h hrun i hi).congr rfl rfl (by rw [hrecord]) (by rw [hrecord]) (by rw [hrecord]))

theorem rowsFit_effectOf (c : Instr) (hc : startsPart c = false) (hconf : ConfigSound s)
    (hl : s.lkt.rows.length = 24) (h : RowsFit s) : RowsFit (effectOf c s) := by
  cases c with
  | supplyStart | resetLine | resetLineRelease | startUpLoadEnd => cases hc
  | lockTableSet w p => exact rowsFit_serveLock _ _ _ h
  | lockTableClear w p => exact rowsFit_serveLock _ _ _ h
  | holdTimerExpiry w row =>
    exact whenDue_keeps RowsFit h fun _ => rowsFit_handleRows _ hconf.conf hl h
  | ackRow w p =>
    exact request_keeps RowsFit h (fun _ _ h => h) fun args =>
      rowsFit_decideAckRow p args hconf.conf hl h
  | writeRow w p =>
    refine request_keeps RowsFit h (fun _ _ h => h) fun args => ?_
    rcases decideWriteRow_cases p args s with heq | ⟨r, hargs, hi, -, heq⟩ <;> rw [heq]
    · exact h
    · exact rowsFit_rewriteRow
        (configSound_rewriteRow hconf hi (programmableValid_of_rowOfArguments hargs)) hl hi h
  | writeConfig w p =>
    exact request_keeps RowsFit h (fun _ _ h => h) fun args =>
      decideWriteConfig_keeps RowsFit p args h (fun _ _ h => h) fun c _ hw h =>
        rowsFit_applyWrite hw h
  | _ =>
    exact h.of_lkt ((sameBut_effectOf _ s hc).lkt (by simp [touches]))
      (sameBut_effectOf _ s hc).phase
      (by rw [conf, conf, working_effectOf hc (by simp) (by simp)])

/-- The rows after the table placement are those of a handling that places each. -/
theorem rows_placeTable (s : State) :
    (placeTable s).lkt.rows = (handleRows .placeAll s).lkt.rows := by
  obtain ⟨hrows, -⟩ := handleRows_lkt .placeAll s
  obtain ⟨hplaced, -⟩ := deriveBlocks_rows (treatRows .placeAll s)
  rw [hrows, placeTable, hplaced, treatRows_eq]

theorem mode_placeTable (s : State) : (placeTable s).lkt.mode = s.lkt.mode := by
  have hplaced := (deriveBlocks_rows (treatRows .placeAll s)).2.2.1
  rw [placeTable, hplaced, treatRows_eq, midway_frame]

theorem conf_placeTable (s : State) : conf (placeTable s) = conf s :=
  conf_of_cfg ((SameBut.of_besideLkt (besideLkt_placeTable s)).cfg (by decide))

theorem rowsFit_placeTable (hc : configValid (conf s) = true) (hl : s.lkt.rows.length = 24) :
    RowsFit (placeTable s) := by
  intro _ i hi
  have hfits := rowFits_handleRows .placeAll hi hl (precursor_below hc hi) True.intro
  exact hfits.congr (rows_placeTable s) (by rw [mode_placeTable, mode_handleRows])
    (by rw [conf_placeTable, conf_handleRows]) (by rw [conf_placeTable, conf_handleRows])
    (by rw [conf_placeTable, conf_handleRows])

theorem rowsFit_loadEnd (lines : Levels) (hi : ImageSound s) (hl : s.lkt.rows.length = 24) :
    RowsFit (loadEnd lines s) := by
  have hc := (configSound_loadEnd lines hi).conf
  rw [loadEnd] at hc ⊢
  rw [conf_placeTable] at hc
  refine rowsFit_placeTable hc ?_
  rw [startScan_lkt, startPwm_lkt, startGate_lkt, startInputs, lkt_loadRecords, lkt_loadConfig]
  exact hl

end Rows

/-- Settles O9. -/
theorem stepKeepsEveryRowStateFitting : Obligations.StepKeepsEveryRowStateFitting := by
  unfold Obligations.StepKeepsEveryRowStateFitting
  intro s t hc hi hl hr h
  rw [rowsSound_iff] at hr ⊢
  have hdeliver : ∀ (g : Handover) (s : State), ConfigSound s ∧ LktSound s ∧ RowsFit s →
      ConfigSound (deliver g s) ∧ LktSound (deliver g s) ∧ RowsFit (deliver g s) :=
    fun g s ⟨hc, hl, hr⟩ => ⟨hc.of_working (by rw [cfg_deliver]), lktSound_deliver g hl,
      rowsFit_deliver g hc.conf hl.1 hr⟩
  refine (step_gives (fun s => ImageSound s ∧ ConfigSound s ∧ LktSound s ∧ RowsFit s)
    (fun s => ConfigSound s ∧ LktSound s ∧ RowsFit s) (fun _ _ h => h) (fun dt s h => ?_)
    (fun g s h => ⟨h.1.of_image (by rw [cfg_deliver]), hdeliver g s h.2⟩) (fun _ _ h => h)
    hdeliver (fun _ _ h => h) ⟨hi, hc, hl, hr⟩ h (fun _ h => h.2)
    (fun c _ u _ ⟨hi, hc, hl, hr⟩ => ⟨(configSound_of_effect c hi hc).1, ?_⟩)).2.2
  · obtain ⟨hi, hc, hl, hr⟩ := h
    have hconf := conf_of_cfg (advance_cfg dt s)
    exact ⟨hi.of_image (by rw [advance_cfg]), hc.of_working (by rw [advance_cfg]),
      hl.of_eq (advance_lkt dt s) fun i _ => by rw [hconf],
      hr.of_lkt (advance_lkt dt s) (advance_phase dt s) hconf⟩
  · by_cases hstart : startsPart c = false
    · exact ⟨lktSound_effectOf c hstart hl, rowsFit_effectOf c hstart hc hl.1 hr⟩
    · exact startsPart_gives (fun t => LktSound t ∧ RowsFit t) hstart ⟨hl, hr⟩
        (fun phase cause hp => ⟨lktSound_resetTo phase cause u, fun hrun => absurd hrun hp⟩)
        (fun _ => ⟨hl, fun hrun => by cases hrun⟩)
        (fun lines _ => ⟨lktSound_loadEnd lines hl, rowsFit_loadEnd lines hi hl.1⟩)

end Sys2Proof.Machine
end

section
/-! The queue and the reset state; the comparisons and the tank states. -/

namespace Sys2Proof.Machine

/-! ### Every command answers a next state -/

/-- A command from a state with no hand-over under way: its time, its effect, the hand-overs. -/
theorem exec_at_rest (c : Instr) {s : State} (hs : s.hand = []) :
    exec c s = .next (takeHandovers (whenOf c) (effectOf c (advance (whenOf c).dt s))) := by
  rw [exec_eq, happen_at_rest _ _ hs]

/-- A command whatever is under way. -/
theorem exec_next_eq (c : Instr) (s : State) :
    exec c s = .next (takeHandovers (whenOf c) (effectOf c (pass (whenOf c).dt s))) := by
  rw [exec_eq, happen_eq]

theorem pending_of_still {s t : State} (h : still t = still s) : t.pending = s.pending :=
  congrArg Still.pending h

theorem pending_effectOf (c : Instr) (s : State) : (effectOf c s).pending = s.pending := by
  by_cases hc : startsPart c = false
  · exact (sameBut_effectOf c s hc).pending
  · refine startsPart_gives (fun t => t.pending = s.pending) hc rfl (fun _ _ _ => rfl)
      (fun _ => rfl) (fun lines _ => ?_)
    rw [loadEnd, (SameBut.of_besideLkt (besideLkt_placeTable _)).pending]
    simp only [startScan_pending, startPwm_pending, startGate_pending, startInputs, loadRecords,
      loadConfig]
    split <;> rfl

/-- Settles O2. -/
theorem commandsLeaveTheQueue : Obligations.CommandsLeaveTheQueue := by
  unfold Obligations.CommandsLeaveTheQueue
  intro c s
  refine ⟨_, exec_next_eq c s, ?_⟩
  rw [pending_of_still (still_takeHandovers _ _), pending_effectOf,
    pending_of_still (still_pass _ _), advance_pending]

/-- Settles O1. -/
theorem stepRunsTheFrontCommand : Obligations.StepRunsTheFrontCommand := by
  unfold Obligations.StepRunsTheFrontCommand
  intro c rest s h
  rw [step, h]

/-! ### Resets -/

theorem tnkSound_resetTo (phase : Phase) (cause : ResetCause) (s : State) :
    TnkSound (resetTo phase cause s) :=
  ⟨by simp [resetTo, freshState, resetTnk, tankValveFor, pumping], rfl, fun f hf => by cases hf⟩

theorem spdSound_reset : SpdSound resetSpd := by
  simp [resetSpd, SpdSound, combineSpeed]

theorem ntqSound_resetTo (phase : Phase) (cause : ResetCause) (s : State) :
    NtqSound (resetTo phase cause s) := by
  intro p
  cases p <;> simp [resetTo, freshState, samePorts, resetNtq, portGet, QueueSound]

theorem lnkSound_resetTo (phase : Phase) (cause : ResetCause) (s : State) :
    LnkSound (resetTo phase cause s) :=
  portGet_of_all (linkSound_resetLink _) (linkSound_resetLink _) (linkSound_resetLink _)

theorem imageSound_reset : ImageSound State.reset := fun _ => by
  show (configOfWords (imageWords factory)).isSome = true
  rw [imageReadsBackAsWritten _ configValid_factory]
  rfl

/-- Settles O16: `State.reset` is what a supply start gives, and its image is the factory's. -/
theorem resetMeetsEveryInvariant : Obligations.ResetMeetsEveryInvariant := by
  unfold Obligations.ResetMeetsEveryInvariant
  have hreset : State.reset = resetTo .loading .supplyStart State.reset := rfl
  refine ⟨seqSound_reset, ?_, ?_, ?_, ?_, (fun hrun => by cases hrun),
    (fun q hq => by cases hq), spdSound_reset, ?_, ?_, ?_, imageSound_reset,
    (fun c hc => by cases hc), ?_⟩ <;> rw [hreset]
  · exact heldSound_resetTo _ _ _
  · exact govSound_resetTo _ _ _
  · exact tnkSound_resetTo _ _ _
  · exact lktSound_resetTo _ _ _
  · exact cnvSound_resetTo _ _ _
  · exact ntqSound_resetTo _ _ _
  · exact lnkSound_resetTo _ _ _
  · exact agree_resetTo .loading .supplyStart State.reset

/-- Settles O18.  What a reset keeps, the image, the select lines and the commands waiting, no
hand-over that time takes first has touched. -/
theorem resetsGiveEveryRecordItsResetValue : Obligations.ResetsGiveEveryRecordItsResetValue := by
  unfold Obligations.ResetsGiveEveryRecordItsResetValue
  intro w s reset
  have hstill := still_pass w.dt s
  have hphase : (pass w.dt s).phase = s.phase :=
    (congrArg Still.phase hstill).trans (advance_phase w.dt s)
  have hcfg : (pass w.dt s).cfg = s.cfg := (congrArg Still.cfg hstill).trans (advance_cfg w.dt s)
  have hlinks : (pass w.dt s).links = s.links :=
    (congrArg Still.links hstill).trans (advance_links w.dt s)
  have hpending : (pass w.dt s).pending = s.pending :=
    (congrArg Still.pending hstill).trans (advance_pending w.dt s)
  have hreset : ∀ phase cause, reset (resetTo phase cause (pass w.dt s)) phase
      ⟨decide (cause = .supplyStart), decide (cause = .resetLine), false, false⟩ := by
    intro phase cause
    refine ⟨rfl, rfl, rfl, rfl, rfl, rfl, rfl, rfl, rfl, rfl, rfl, rfl, rfl, fun p => ?_, ?_, rfl,
      hpending⟩
    · rw [← hlinks]
      cases p <;> rfl
    · rw [← hcfg]
      rfl
  refine ⟨fun hp => ?_, fun hp => ?_, ?_, fun hp hs => ?_⟩
  · refine ⟨resetTo .loading .supplyStart (pass w.dt s), ?_, hreset _ _⟩
    rw [exec_next_eq]
    simp only [effectOf, whenOf, hphase, if_neg hp]
    rw [takeHandovers_of_hand_nil w rfl]
  · refine ⟨resetTo .held .resetLine (pass w.dt s), ?_, hreset _ _⟩
    rw [exec_next_eq]
    simp only [effectOf, whenOf, hphase, if_pos hp]
    rw [takeHandovers_of_hand_nil w rfl]
  · refine ⟨resetTo .held .resetLine (pass w.dt s), ?_, hreset _ _⟩
    rw [exec_next_eq]
    simp only [effectOf, whenOf]
    rw [takeHandovers_of_hand_nil w rfl]
  · rw [exec_at_rest _ hs]
    simp only [effectOf, whenOf, advance_phase, if_pos hp]
    rw [takeHandovers_of_hand_nil w (by simp [hs]), advance, hp]

/-! ### Tank states -/

theorem plainState_iff (t : TankThresholds) (v : Int) (h : thresholdsValid t = true) :
    (v ≤ t.empty → plainState t v = .empty) ∧
      (t.empty < v → v ≤ t.low → plainState t v = .low) ∧
      (t.low < v → v < t.full → plainState t v = .normal) ∧
      (t.full ≤ v → plainState t v = .full) := by
  simp only [thresholdsValid, Bool.and_eq_true, decide_eq_true_eq] at h
  unfold plainState
  refine ⟨fun h1 => ?_, fun h1 h2 => ?_, fun h1 h2 => ?_, fun h1 => ?_⟩
  · rw [if_pos h1]
  · rw [if_neg (by omega), if_pos h2]
  · rw [if_neg (by omega), if_neg (by omega), if_neg (by omega)]
  · rw [if_neg (by omega), if_neg (by omega), if_pos h1]

/-- Settles O51. -/
theorem tankStatesKeepTheirBands : Obligations.TankStatesKeepTheirBands := by
  unfold Obligations.TankStatesKeepTheirBands
  intro t held v h
  have hplain := plainState_iff t v h
  cases held with
  | unknown => exact ⟨False.elim, fun _ => hplain⟩
  | empty =>
    refine ⟨fun hk => if_pos hk, fun hk => ?_⟩
    rw [nextTankState, if_neg hk]
    exact hplain
  | low =>
    refine ⟨fun hk => if_pos hk, fun hk => ?_⟩
    rw [nextTankState, if_neg hk]
    exact hplain
  | normal =>
    refine ⟨fun hk => if_pos hk, fun hk => ?_⟩
    rw [nextTankState, if_neg hk]
    exact hplain
  | full =>
    refine ⟨fun hk => if_pos hk, fun hk => ?_⟩
    rw [nextTankState, if_neg hk]
    exact hplain

/-! ### Comparisons -/

/-- R44: the masked comparison, bit by bit. -/
theorem maskedSame_iff (v pattern mask : Int) :
    maskedSame v pattern mask = true ↔ ∀ n < 16, (wordOfInt mask).getLsbD n = true →
      (wordOfInt v).getLsbD n = (wordOfInt pattern).getLsbD n := by
  rw [maskedSame, beq_iff_eq]
  constructor
  · intro h n hn hmask
    have hbit := congrArg (fun x : Word => x.getLsbD n) h
    simpa [hmask] using hbit
  · intro h
    refine BitVec.eq_of_getLsbD_eq fun n hn => ?_
    have hbit := h n hn
    cases hmask : (wordOfInt mask).getLsbD n <;> simp_all

theorem midpoint_between {lo hi : Int} (h : lo ≤ hi) :
    lo ≤ Int.tdiv (lo + hi) 2 ∧ Int.tdiv (lo + hi) 2 ≤ hi := by
  have hsign : Int.sign 2 = 1 := rfl
  rw [Int.tdiv_eq_ediv, hsign]
  split <;> omega

theorem compare_widened {r : RowRecord} {v : Int} (hle : r.lo ≤ r.hi)
    (h : compare r false v = true) : compare r true v = true := by
  unfold compare at h ⊢
  split at h
  · rfl
  · simp only [if_true, Bool.false_eq_true, if_false, Bool.and_eq_true, decide_eq_true_eq] at h ⊢
    omega
  · have hmid := midpoint_between hle
    simp only [if_true, Bool.false_eq_true, if_false, Bool.or_eq_true, decide_eq_true_eq] at h ⊢
    split
    · simp only [bne_iff_ne, ne_eq]
      omega
    · simp only [Bool.or_eq_true, decide_eq_true_eq]
      omega
  · exact h
  · exact h

/-- Settles O52. -/
theorem comparisonsTestValuesPlainAndWidened :
    Obligations.ComparisonsTestValuesPlainAndWidened := by
  unfold Obligations.ComparisonsTestValuesPlainAndWidened
  intro r v
  refine ⟨fun h wide => ?_, fun h => ?_, fun h => ?_, fun h wide => ?_, fun h wide => ?_,
    compare_widened⟩
  · rw [compare, h]
  · simp [compare, h]
  · refine ⟨by simp [compare, h], fun hle => ?_, fun hlt => ?_⟩
    · simp [compare, h, if_neg (not_lt.mpr hle)]
    · simp [compare, h, if_pos hlt]
  · rw [compare, h, maskedSame_iff]
  · rw [compare, h, ← maskedSame_iff]
    simp

end Sys2Proof.Machine
end

section
/-! What a command does while the part runs; the inputs, the pulses and the gates. -/

namespace Sys2Proof.Machine

/-! ### A command while the part runs -/

section Running

variable {c : Instr} {w : When} {f : State → State} {s : State}

/-- A command that has an effect only once the part runs, with no hand-over under way before it. -/
theorem exec_running (hc : effectOf c = whenRunning f) (hw : whenOf c = w)
    (hp : s.phase = .running) (hs : s.hand = []) :
    exec c s = .next (takeHandovers w (f (advance w.dt s))) := by
  rw [exec_at_rest c hs, hc, hw, whenRunning_running f (by rw [advance_phase, hp])]

/-- The same where its effect hands nothing on. -/
theorem exec_running_quiet (hc : effectOf c = whenRunning f) (hw : whenOf c = w)
    (hp : s.phase = .running) (hs : s.hand = []) (hf : (f (advance w.dt s)).hand = []) :
    exec c s = .next (f (advance w.dt s)) := by
  rw [exec_running hc hw hp hs, takeHandovers_of_hand_nil w hf]

/-- The same with hand-overs under way: its effect meets a state that differs from the one at the
command's moment only where hand-overs may. -/
theorem exec_running_pass (hc : effectOf c = whenRunning f) (hw : whenOf c = w)
    (hp : s.phase = .running) :
    ∃ v, still v = still (advance w.dt s) ∧ exec c s = .next (takeHandovers w (f v)) ∧
      (s.hand = [] → v = advance w.dt s) := by
  refine ⟨pass w.dt s, still_pass _ _, ?_, fun hs => pass_of_hand_nil _ hs⟩
  have hrun : (pass w.dt s).phase = .running :=
    (congrArg Still.phase (still_pass w.dt s)).trans ((advance_phase w.dt s).trans hp)
  rw [exec_next_eq, hc, hw, whenRunning_running f hrun]

/-! ### Requests -/

variable {p : Port} {kind : RequestKind} {args : List Word}
  {decide_ : List Word → State → State × Result × List Word}

/-- A request, with no hand-over under way before it. -/
theorem exec_request (hc : effectOf c = whenRunning (serve p kind decide_)) (hw : whenOf c = w)
    (hp : s.phase = .running) (hs : s.hand = []) (ha : askedOf s p kind = some args) {u : State}
    {r : Result} {data : List Word} (hd : decide_ args (advance w.dt s) = (u, r, data)) :
    exec c s = .next (takeHandovers w { u with links := answered u p ⟨kind, r, data⟩ }) := by
  rw [exec_running hc hw hp hs, serve_asked decide_ (by rw [askedOf_advance, ha]), hd, fixAnswer_eq]

/-- A request that its owner answers and that changes nothing else. -/
theorem exec_answered (hc : effectOf c = whenRunning (serve p kind decide_)) (hw : whenOf c = w)
    (hp : s.phase = .running) (hs : s.hand = []) (ha : askedOf s p kind = some args)
    {r : Result} {data : List Word}
    (hd : decide_ args (advance w.dt s) = (advance w.dt s, r, data)) :
    exec c s = .next { advance w.dt s with links := answered s p ⟨kind, r, data⟩ } := by
  rw [exec_request hc hw hp hs ha hd, answered_advance,
    takeHandovers_of_hand_nil w (by rw [advance_hand, hs])]

end Running

/-! ### What no hand-over changes -/

section Still

variable {s t : State}

theorem spd_of_still (h : still t = still s) : t.spd = s.spd := congrArg Still.spd h

theorem cnv_of_still (h : still t = still s) : t.cnv = s.cnv := congrArg Still.cnv h

theorem cfg_of_still (h : still t = still s) : t.cfg = s.cfg := congrArg Still.cfg h

theorem links_of_still (h : still t = still s) : t.links = s.links := congrArg Still.links h

theorem timeBase_of_still (h : still t = still s) : t.timeBase = s.timeBase :=
  congrArg Still.timeBase h

theorem usCount_of_still (h : still t = still s) : t.usCount = s.usCount :=
  congrArg Still.usCount h

theorem inputs_of_still (h : still t = still s) : t.lio.inputs = s.lio.inputs :=
  congrArg Still.inputs h

theorem np_of_still (h : still t = still s) : t.lio.np = s.lio.np := congrArg Still.np h

theorem prevEdge_of_still (h : still t = still s) : t.lio.prevEdge = s.lio.prevEdge :=
  congrArg Still.prevEdge h

theorem settle_of_still (h : still t = still s) : t.lio.settle = s.lio.settle :=
  congrArg Still.settle h

theorem silence_of_still (h : still t = still s) : t.lio.silence = s.lio.silence :=
  congrArg Still.silence h

theorem gate_of_still (h : still t = still s) : t.lio.gate = s.lio.gate := congrArg Still.gate h

theorem gateCount_of_still (h : still t = still s) : t.lio.gateCount = s.lio.gateCount :=
  congrArg Still.gateCount h

theorem startTimer_of_still (h : still t = still s) (n : Nat) :
    startTimer t n = startTimer s n := by
  rw [startTimer, startTimer, timeBase_of_still h]

@[simp] theorem still_publishWord (s : State) : still (publishWord s) = still s := by
  simp [publishWord]

@[simp] theorem still_publishPump (s : State) : still (publishPump s) = still s := by
  simp [publishPump]

end Still

/-! ### Inputs -/

theorem inputGet_sampleInputs (k : Timer) (l : Levels) (u : Inputs) (i : DiscreteInput) :
    inputGet (sampleInputs k l u) i = sampled k (readsSet i l) (inputGet u i) := by
  cases i <;> rfl

/-- R123: what a sample makes of an input's record. -/
theorem sampled_cases (k : Timer) (raw : Bool) (x : InputSlot) :
    (sampled k raw x).raw = raw ∧ (sampled k raw x).debounced = x.debounced ∧
      (raw = x.debounced → (sampled k raw x).timer = none) ∧
      (raw ≠ x.debounced → (∀ k', x.timer = some k' → (sampled k raw x).timer = some k') ∧
        (x.timer = none → (sampled k raw x).timer = some k)) := by
  refine ⟨rfl, rfl, fun h => if_pos h, fun h => ⟨fun k' hk => ?_, fun hnone => ?_⟩⟩
  · simp [sampled, h, hk]
  · simp [sampled, h, hnone]

/-- Settles O23. -/
theorem sampleRunsTheStabilityTimers : Obligations.SampleRunsTheStabilityTimers := by
  unfold Obligations.SampleRunsTheStabilityTimers
  intro w lines s hp hs u
  refine ⟨{ u with lio := { u.lio with
    inputs := sampleInputs ⟨u.timeBase, (conf s).timing.debounce⟩ lines s.lio.inputs } }, ?_, rfl,
    fun i => ?_⟩
  · rw [exec_running_quiet (c := .inputSample w lines) (w := w) rfl rfl hp hs
      (by rw [advance_hand, hs]), conf_advance, startTimer, advance_lio]
  · dsimp only
    rw [inputGet_sampleInputs]
    obtain ⟨hraw, hdebounced, hsame, hother⟩ := sampled_cases
      ⟨u.timeBase, (conf s).timing.debounce⟩ (readsSet i lines) (inputGet s.lio.inputs i)
    exact ⟨hraw, hdebounced, hsame, fun h => (hother h).1, fun h => (hother h).2⟩

/-! ### The pump speed -/

/-- R125: a publication of N_p, with no hand-over under way before it. -/
theorem publishPump_eq (s : State) :
    publishPump s = { s with
      hand := s.hand ++ [.pumpToSeq s.lio.np, .arrival .lio .pumpSpeed (some s.lio.np)] } := by
  simp [publishPump, arrive, handOver]

theorem pumpSpeedOf_eq {period q : Nat} (h : 0 < period * q) :
    pumpSpeedOf period q = min 4000 (60000000 / (period * q)) := by
  rw [pumpSpeedOf, truncatedQuotient, if_neg (by omega)]

theorem speedAtEdge_of_still {s t : State} (h : still t = still s) :
    speedAtEdge t = speedAtEdge s := by
  unfold speedAtEdge
  rw [prevEdge_of_still h, np_of_still h, usCount_of_still h, conf_of_still h]

/-- R125: TACH_EDGE. -/
theorem tachEdge_gives (w : When) (s : State) (hp : s.phase = .running) :
    let u := advance w.dt s
    let np := speedAtEdge u
    ∃ t, exec (.tachEdge w) s = .next t ∧
      still t = { still u with
        np := np, prevEdge := some u.usCount, silence := some ⟨u.timeBase, 500⟩ } ∧
      (s.hand = [] → t = takeHandovers w { u with
        lio := { s.lio with
          np := np, prevEdge := some u.usCount, silence := some ⟨u.timeBase, 500⟩ }
        hand := [.pumpToSeq np, .arrival .lio .pumpSpeed (some np)] }) := by
  intro u np
  obtain ⟨v, hv, heq, hrest⟩ := exec_running_pass (c := .tachEdge w) (w := w) rfl rfl hp
  refine ⟨_, heq, ?_, fun hs => ?_⟩
  · rw [still_takeHandovers, still_publishPump]
    show { still v with
      np := speedAtEdge v, prevEdge := some v.usCount
      silence := some (startTimer v silenceLength) } = _
    rw [hv, speedAtEdge_of_still hv, usCount_of_still hv, startTimer_of_still hv]
    rfl
  · rw [hrest hs, publishPump_eq]
    simp only [advance_lio, advance_hand, hs, List.nil_append]
    rfl

/-- R126: SILENCE_TIMER_EXPIRY with the timer due. -/
theorem silenceExpiry_gives (w : When) (s : State) (hp : s.phase = .running)
    (hdue : timerDue (advance w.dt s).timeBase s.lio.silence = true) :
    let u := advance w.dt s
    ∃ t, exec (.silenceTimerExpiry w) s = .next t ∧
      still t = { still u with np := 0, prevEdge := none, silence := none } ∧
      (s.hand = [] → t = takeHandovers w { u with
        lio := { s.lio with np := 0, prevEdge := none, silence := none }
        hand := [.pumpToSeq 0, .arrival .lio .pumpSpeed (some 0)] }) := by
  intro u
  obtain ⟨v, hv, heq, hrest⟩ := exec_running_pass (c := .silenceTimerExpiry w) (w := w) rfl rfl hp
  have hdue : timerDue v.timeBase v.lio.silence = true := by
    rw [timeBase_of_still hv, silence_of_still hv, advance_lio]
    exact hdue
  rw [if_pos hdue] at heq
  refine ⟨_, heq, ?_, fun hs => ?_⟩
  · rw [still_takeHandovers, still_publishPump, ← hv]
    rfl
  · rw [hrest hs, publishPump_eq]
    simp only [advance_lio, advance_hand, hs, List.nil_append]
    rfl

/-! ### What SEQ does with a pump speed, a block set and a change of speed -/

theorem seqTakesPump_eq (np : Nat) (s : State) :
    seqTakesPump np s =
      if s.seq.mode = .disengaging ∧ s.seq.sub = some .spinDown ∧
          np ≤ (conf s).timing.disengageSpeed then
        releaseOutcome s .condition s.seq.request [] []
      else s := by
  rw [seqTakesPump, enterRelease_eq]

/-- R24, R26: SEQ takes a block set. -/
theorem seqTakesBlocks_eq (b : BlockSet) (s : State) :
    let taken : State := { s with seq := { s.seq with
      blocks := b, pumpReady := s.seq.mode == .pump && !holdsBlock b .throttle } }
    seqTakesBlocks b s =
      if holdsBlock b .pto = false then taken
      else if s.seq.mode = .shiftingIn then
        releaseOutcome taken .block none [] (outcomeNotices s s.seq.request .aborted 0)
      else if pumping s.seq.mode then spinDownOutcome taken .block s.seq.request
      else taken := by
  intro taken
  rw [seqTakesBlocks, actOnPtoBlock_eq]
  rfl

/-- Settles O25. -/
theorem tachEdgesAndSilenceGiveThePumpSpeed : Obligations.TachEdgesAndSilenceGiveThePumpSpeed := by
  unfold Obligations.TachEdgesAndSilenceGiveThePumpSpeed
  refine ⟨fun w s hp => ⟨?_, silenceExpiry_gives w s hp, fun hdue hs => ?_⟩, fun np s => ?_,
    fun b s => ?_, fun s => ?_⟩
  · obtain ⟨t, heq, hstill, hrest⟩ := tachEdge_gives w s hp
    have hnp : t.lio.np = speedAtEdge (advance w.dt s) := congrArg Still.np hstill
    rw [← hnp] at hstill hrest
    refine ⟨t, heq, hstill, fun hnone => ?_, fun e he hpos => ?_, hrest⟩
    · rw [hnp, speedAtEdge, advance_lio, hnone]
    · rw [hnp, speedAtEdge, advance_lio, he]
      dsimp only
      rw [conf_advance, sinceCount, pumpSpeedOf_eq hpos]
  · rw [exec_running_quiet (c := .silenceTimerExpiry w) (w := w) rfl rfl hp hs] <;>
      rw [advance_lio, if_neg (by rw [hdue]; exact Bool.false_ne_true)]
    rw [advance_hand, hs]
  · have h := seqTakesPump_eq np s
    refine ⟨fun hspin hle => ?_, fun hnot => ?_⟩
    · exact h.trans (if_pos ⟨hspin.1, hspin.2, hle⟩)
    · refine h.trans (if_neg fun ⟨hmode, hsub, hle⟩ => ?_)
      rcases hnot with hnot | hlt
      · exact hnot ⟨hmode, hsub⟩
      · omega
  · have h := seqTakesBlocks_eq b s
    refine ⟨fun hfree => h.trans (if_pos hfree), fun hheld => ?_⟩
    have h := h.trans (if_neg (by rw [hheld]; exact Bool.noConfusion))
    refine ⟨fun hm => h.trans (if_pos hm), fun hm => ?_, fun hm => ?_⟩
    · refine h.trans ((if_neg ?_).trans (if_pos ?_)) <;>
        rcases hm with hm | hm <;> simp [hm, pumping]
    · refine h.trans ((if_neg ?_).trans (if_neg ?_)) <;>
        rcases hm with hm | hm | hm | hm | hm <;> simp [hm, pumping]
  · have h := rederive_eq s
    refine ⟨fun hm => h.trans (if_pos ?_), fun hroad hparked => h.trans (if_neg ?_)⟩
    · rcases hm with hm | hm <;> rw [hm] <;> rfl
    · cases hm : s.seq.mode <;> simp_all [standing]

end Sys2Proof.Machine
end

section
/-! The road speed: gates, reports and the two speed timers. -/

namespace Sys2Proof.Machine

/-! ### A recomputation at a report or a gate end -/

section Recomputed

variable {s : State} {u : SpdUnit} {r : SpeedReport}

theorem recomputed_stale (h : u.freshness = .stale) (check : Bool) :
    recomputed check s u = { u with value := u.measured, transmission := .unknown } := by
  unfold recomputed checkDisagreement
  rw [combineSpeed_stale h]
  cases check <;> simp [h]

/-- R119: reported and measured speed differ by more than the tolerance. -/
theorem speedsDiffer_iff (tolerance : Nat) (hr : u.report = some r) :
    speedsDiffer tolerance u = true ↔ (tolerance : Int) < |(r.speed : Int) - u.measured| := by
  rw [speedsDiffer, hr, decide_eq_true_eq, Int.abs_eq_natAbs]

/-- R119: the disagreement check while FRESH. -/
theorem checkDisagreement_fresh (tolerance : Nat) (k : Timer) (hf : u.freshness = .fresh) :
    (¬speedsDiffer tolerance u = true →
      checkDisagreement tolerance k u = { u with disagreement := .agree, disTimer := none }) ∧
    (speedsDiffer tolerance u = true → u.disagreement = .agree →
      checkDisagreement tolerance k u = { u with disagreement := .differing, disTimer := some k }) ∧
    (speedsDiffer tolerance u = true → u.disagreement ≠ .agree →
      checkDisagreement tolerance k u = u) := by
  unfold checkDisagreement
  split
  · next hs => simp [hf] at hs
  refine ⟨fun h => if_neg h, fun h ha => ?_, fun h ha => ?_⟩
  · rw [if_pos h, ha]
  · rw [if_pos h]
    split
    · next hagree => exact absurd hagree ha
    all_goals rfl

/-- R118, R119: the record while FRESH after a report or a gate end. -/
theorem recomputed_fresh (hf : u.freshness = .fresh) (hr : u.report = some r) :
    let v := recomputed true s u
    let differs := ((conf s).tolerances.speed : Int) < |(r.speed : Int) - u.measured|
    (v.value = max r.speed u.measured ∧ v.transmission = r.transmission) ∧
    (¬differs → v.disagreement = .agree ∧ v.disTimer = none) ∧
    (differs → u.disagreement = .agree →
      v.disagreement = .differing ∧ v.disTimer = some ⟨s.timeBase, 2000⟩) ∧
    (differs → u.disagreement ≠ .agree →
      v.disagreement = u.disagreement ∧ v.disTimer = u.disTimer) := by
  intro v differs
  have hv : v = checkDisagreement (conf s).tolerances.speed ⟨s.timeBase, 2000⟩
      (combineSpeed u) := rfl
  have hdiffers : speedsDiffer (conf s).tolerances.speed (combineSpeed u) = true ↔ differs := by
    rw [speedsDiffer_iff _ (by rw [combineSpeed_report, hr]), combineSpeed_measured]
  have hcombined := combineSpeed_fresh hf hr
  obtain ⟨hagree, hbegins, hstands⟩ := checkDisagreement_fresh (u := combineSpeed u)
    (conf s).tolerances.speed ⟨s.timeBase, 2000⟩ (by rw [combineSpeed_freshness, hf])
  rw [hdiffers, combineSpeed_disagreement] at hbegins hstands
  rw [hdiffers] at hagree
  refine ⟨?_, fun h => ?_, fun h ha => ?_, fun h ha => ?_⟩
  · rw [hv, checkDisagreement_value, checkDisagreement_transmission, hcombined]
    exact ⟨rfl, rfl⟩
  · rw [hv, hagree h]
    exact ⟨rfl, rfl⟩
  · rw [hv, hbegins h ha]
    exact ⟨rfl, rfl⟩
  · rw [hv, hstands h ha, combineSpeed_disagreement, combineSpeed_disTimer]
    exact ⟨rfl, rfl⟩

end Recomputed

theorem takeGate_eq (count gate : Nat) (s : State) :
    takeGate count gate s =
      recomputeSpeed true { s.spd with
        measured := measuredSpeed count gate (conf s).rates.pulsesPerKm } s := rfl

/-! ### Gates -/

/-- The record that the end of a gate gives SPD. -/
def gatedSpd (s : State) (gate : Nat) : SpdUnit :=
  recomputed true s { s.spd with
    measured := measuredSpeed s.lio.gateCount gate (conf s).rates.pulsesPerKm }

theorem gatedSpd_of_still {s t : State} (h : still t = still s) (gate : Nat) :
    gatedSpd t gate = gatedSpd s gate := by
  unfold gatedSpd recomputed
  rw [spd_of_still h, gateCount_of_still h, conf_of_still h, startTimer_of_still h]

theorem still_startGate (s : State) :
    still (startGate s) =
      { still s with gate := some (startTimer s (conf s).rates.gate), gateCount := 0 } := rfl

/-- R117: GATE_END with the gate due. -/
theorem gateEnd_gives (w : When) (s : State) (hp : s.phase = .running) {g : Timer}
    (hg : s.lio.gate = some g) (hdue : timerDue (advance w.dt s).timeBase (some g) = true) :
    let u := advance w.dt s
    ∃ t, exec (.gateEnd w) s = .next t ∧
      still t = { still u with
        spd := gatedSpd u g.length, gateCount := 0
        gate := some ⟨u.timeBase, (conf s).rates.gate⟩ } ∧
      (s.hand = [] → t = takeHandovers w { u with
        spd := gatedSpd u g.length
        lio := { s.lio with gateCount := 0, gate := some ⟨u.timeBase, (conf s).rates.gate⟩ }
        hand := speedHandovers u true s.spd (gatedSpd u g.length) }) := by
  intro u
  obtain ⟨v, hv, heq, hrest⟩ := exec_running_pass (c := .gateEnd w) (w := w) rfl rfl hp
  have hgate : v.lio.gate = some g := by rw [gate_of_still hv, advance_lio, hg]
  rw [hgate] at heq
  dsimp only at heq
  rw [timeBase_of_still hv, if_pos hdue] at heq
  have hspd : recomputed true (startGate v) { (startGate v).spd with
      measured := measuredSpeed v.lio.gateCount g.length (conf (startGate v)).rates.pulsesPerKm } =
      gatedSpd v g.length := rfl
  refine ⟨_, heq, ?_, fun hs => ?_⟩
  · rw [still_takeHandovers, takeGate_eq, still_recomputeSpeed, hspd, gatedSpd_of_still hv,
      still_startGate, hv, startTimer_of_still hv, conf_of_still hv, conf_advance]
    rfl
  · rw [takeGate_eq, recomputeSpeed_eq, hspd]
    rw [hrest hs]
    simp only [startGate, advance_hand, advance_lio, advance_spd, conf_advance, hs,
      List.nil_append]
    rfl

/-- Settles O26. -/
theorem gatesCountPulsesAndMeasureTheSpeed : Obligations.GatesCountPulsesAndMeasureTheSpeed := by
  unfold Obligations.GatesCountPulsesAndMeasureTheSpeed
  intro w s hp u
  refine ⟨fun hs => ?_, fun g hg hdue => ?_⟩
  · rw [exec_running_quiet (c := .roadPulseEdge w) (w := w) rfl rfl hp hs
      (by rw [advance_hand, hs])]
    have hcount : min 65535 (u.lio.gateCount + 1) =
        if s.lio.gateCount < 65535 then s.lio.gateCount + 1 else 65535 := by
      rw [advance_lio]
      split <;> omega
    rw [hcount]
  · intro product hpos
    obtain ⟨t, heq, hstill, hrest⟩ := gateEnd_gives w s hp hg hdue
    have hspd : t.spd = gatedSpd u g.length := congrArg Still.spd hstill
    have hmeasured : measuredSpeed u.lio.gateCount g.length (conf u).rates.pulsesPerKm =
        min 1500 (s.lio.gateCount * 36000000 / product) := by
      rw [measuredSpeed, truncatedQuotient, advance_lio, conf_advance, if_neg (by omega)]
    rw [← hspd] at hstill hrest
    refine ⟨t, heq, hstill, hrest, ?_⟩
    rw [hspd, gatedSpd, hmeasured, advance_spd]
    generalize min 1500 (s.lio.gateCount * 36000000 / product) = m
    refine ⟨?_, ?_, ?_, ?_, fun hstale => ?_, fun r hfresh hr => ?_⟩
    · simp [recomputed]
    · simp [recomputed]
    · simp [recomputed]
    · simp [recomputed]
    · rw [recomputed_stale (u := { s.spd with measured := m }) hstale]
      exact ⟨rfl, rfl, rfl, rfl⟩
    · intro differs
      have hmeasured : (recomputed true u { s.spd with measured := m }).measured = m := by
        simp [recomputed]
      simp only [differs, hmeasured]
      have hv := recomputed_fresh (s := u) (u := { s.spd with measured := m }) hfresh hr
      rw [conf_advance] at hv
      obtain ⟨⟨hvalue, htransmission⟩, hcheck⟩ := hv
      exact ⟨hvalue, htransmission, hcheck⟩

/-! ### The two speed timers -/

/-- A command that makes SPD recompute from the record `u`. -/
theorem exec_recompute {c : Instr} {w : When} {f : State → State} {s : State}
    (hc : effectOf c = whenRunning f) (hw : whenOf c = w) (hp : s.phase = .running)
    {check : Bool} {u : SpdUnit}
    (hf : ∀ v, still v = still (advance w.dt s) → f v = recomputeSpeed check u v) :
    ∃ t, exec c s = .next t ∧
      still t = { still (advance w.dt s) with spd := recomputed check (advance w.dt s) u } ∧
      (s.hand = [] → t = takeHandovers w { advance w.dt s with
        spd := recomputed check (advance w.dt s) u
        hand := speedHandovers (advance w.dt s) check s.spd
          (recomputed check (advance w.dt s) u) }) := by
  obtain ⟨v, hv, heq, hrest⟩ := exec_running_pass hc hw hp
  refine ⟨_, heq, ?_, fun hs => ?_⟩
  · rw [still_takeHandovers, hf v hv, still_recomputeSpeed, hv]
    unfold recomputed
    rw [conf_of_still hv, startTimer_of_still hv]
  · rw [hf v hv, hrest hs, recomputeSpeed_eq, advance_hand, hs, advance_spd, List.nil_append]

theorem quality_of_stale {u : SpdUnit} (h : u.freshness = .stale) :
    quality u = .degraded ∧ degradedCause u = 1 := by
  constructor
  · exact if_neg fun hg => by cases h.symm.trans hg.1
  · rw [degradedCause, h]

theorem quality_of_disagree {u : SpdUnit} (hf : u.freshness = .fresh)
    (hd : u.disagreement = .disagree) : quality u = .degraded ∧ degradedCause u = 2 := by
  constructor
  · exact if_neg fun hg => hg.2 hd
  · rw [degradedCause, hf, hd]

/-- R119: with the record sound, a lasting difference changes the disagreement and its timer. -/
theorem recomputed_disagree {s : State} {u : SpdUnit} (hu : SpdSound u) :
    recomputed false s { u with disagreement := .disagree, disTimer := none } =
      { u with disagreement := .disagree, disTimer := none } := by
  obtain ⟨-, -, -, -, hcombine, -⟩ := hu
  show combineSpeed _ = _
  rw [combineSpeed_of_disagreement, hcombine]

/-- Settles O38. -/
theorem speedTimersDegradeTheQuality : Obligations.SpeedTimersDegradeTheQuality := by
  unfold Obligations.SpeedTimersDegradeTheQuality
  intro w s hp u
  refine ⟨fun hdue => ?_, fun hsound hdiffering hdue => ?_⟩
  · obtain ⟨t, heq, hstill, hrest⟩ := exec_recompute (c := .staleTimerExpiry w) (w := w)
      (check := false) (u := staleRecord s.spd) rfl rfl hp fun v hv => by
        rw [timeBase_of_still hv, spd_of_still hv, advance_spd, if_pos hdue, becomeStale,
          spd_of_still hv, advance_spd]
    rw [recomputed_stale (u := staleRecord s.spd) rfl] at hstill hrest
    have hspd : t.spd = { staleRecord s.spd with
      value := s.spd.measured, transmission := .unknown } := congrArg Still.spd hstill
    refine ⟨t, heq, hstill, fun hs => ?_, ?_⟩
    · rw [hspd]
      exact hrest hs
    · exact quality_of_stale (by rw [hspd]; rfl)
  · obtain ⟨t, heq, hstill, hrest⟩ := exec_recompute (c := .disagreementTimerExpiry w) (w := w)
      (check := false) (u := { s.spd with disagreement := .disagree, disTimer := none }) rfl rfl hp
      fun v hv => by
        rw [timeBase_of_still hv, spd_of_still hv, advance_spd, if_pos ⟨hdiffering, hdue⟩,
          becomeDisagree, spd_of_still hv, advance_spd]
    rw [recomputed_disagree hsound] at hstill hrest
    have hspd : t.spd = { s.spd with disagreement := .disagree, disTimer := none } :=
      congrArg Still.spd hstill
    have hfresh : s.spd.freshness = .fresh := by
      obtain ⟨-, -, -, hagree, -⟩ := hsound
      cases hf : s.spd.freshness with
      | fresh => rfl
      | stale => cases (hagree hf).symm.trans hdiffering
    refine ⟨t, heq, hstill, fun hs => ?_, ?_⟩
    · rw [hspd]
      exact hrest hs
    · exact quality_of_disagree (by rw [hspd]; exact hfresh) (by rw [hspd])

/-! ### Reports -/

/-- A request whose decision recomputes SPD's record from `u`. -/
theorem exec_report {c : Instr} {w : When} {p : Port} {kind : RequestKind} {args : List Word}
    {decide_ : List Word → State → State × Result × List Word} {s : State}
    (hc : effectOf c = whenRunning (serve p kind decide_)) (hw : whenOf c = w)
    (hp : s.phase = .running) (ha : askedOf s p kind = some args) {u : SpdUnit} {r : Result}
    {data : SpdUnit → List Word}
    (hd : ∀ v, still v = still (advance w.dt s) →
      decide_ args v = (recomputeSpeed true u v, r, data (recomputeSpeed true u v).spd)) :
    let v := recomputed true (advance w.dt s) u
    ∃ t, exec c s = .next t ∧
      still t = { still (advance w.dt s) with
        spd := v, links := answered s p ⟨kind, r, data v⟩ } ∧
      (s.hand = [] → t = takeHandovers w { advance w.dt s with
        spd := v, links := answered s p ⟨kind, r, data v⟩
        hand := speedHandovers (advance w.dt s) true s.spd v }) := by
  intro v
  obtain ⟨x, hx, heq, hrest⟩ := exec_running_pass hc hw hp
  have hlinks : x.links = s.links := (links_of_still hx).trans (advance_links _ _)
  have hasked : askedOf x p kind = some args := by rw [askedOf, hlinks]; exact ha
  have hv : recomputed true x u = v := by
    unfold v recomputed
    rw [conf_of_still hx, startTimer_of_still hx]
  rw [serve_asked decide_ hasked, hd x hx, recomputeSpeed_eq, fixAnswer_eq, hv] at heq
  refine ⟨_, heq, ?_, fun hs => ?_⟩
  · rw [still_takeHandovers]
    show { still x with spd := v, links := answered x p ⟨kind, r, data v⟩ } = _
    rw [hx, answered, hlinks]
    rfl
  · dsimp only [answered]
    rw [hlinks, hrest hs, advance_hand, hs, advance_spd, List.nil_append]

section Freshened

variable {i : Nat} {p : Port} {now : Count32} {u : SpdUnit}

/-- R114, R115: when the reports are FRESH behind one. -/
theorem freshened_fresh_iff :
    (freshened i p now u).freshness = .fresh ↔ u.freshness = .fresh ∨
      ∃ r, u.report = some r ∧ r.sender = p ∧ (now - r.arrival).toNat ≤ i := by
  unfold freshened
  split
  · next hf => simp [hf]
  · next hf hr =>
    split
    · next h => simpa [hr, hf, sinceCount, -BitVec.toNat_sub] using h
    · next h => simpa [hr, hf, sinceCount, -BitVec.toNat_sub] using h
  · next hf hr => simp [hf, hr]

/-- R114, R115: a report that leaves the record FRESH restarts the stale timer, and begins the
comparison of R119 anew where the record was STALE. -/
theorem freshened_fresh (h : (freshened i p now u).freshness = .fresh) :
    freshened i p now u = { u with
      freshness := .fresh, staleTimer := some ⟨now, 3 * i⟩
      disagreement := if u.freshness = .fresh then u.disagreement else .agree
      disTimer := if u.freshness = .fresh then u.disTimer else none } := by
  unfold freshened at h ⊢
  split
  · next hf => simp [hf]
  · next hf hr =>
    rw [hf, hr] at h
    split
    · simp [hf]
    · next hn => simp [hn, hf] at h
  · next hf hr => simp [hf, hr] at h

theorem freshened_stale (h : (freshened i p now u).freshness = .stale) :
    freshened i p now u = u := by
  unfold freshened at h ⊢
  split
  · next hf => simp [hf] at h
  · next hf hr =>
    rw [hf, hr] at h
    split
    · next hy => simp [hy] at h
    · rfl
  · rfl

theorem freshened_measured : (freshened i p now u).measured = u.measured := by
  unfold freshened
  repeat' split
  all_goals rfl

end Freshened

/-- Section 11.3: the data word of the quality and the transmission. -/
theorem speedData_eq (s : State) :
    speedData s = [wordOfNat s.spd.value,
      wordOfNat (qualityCode (quality s.spd) + 2 * transmissionCode s.spd.transmission)] := by
  rw [speedData, packWord]
  cases quality s.spd <;> cases s.spd.transmission <;> rfl

theorem transmissionOfCode_none_iff (n : Nat) : transmissionOfCode n = none ↔ 4 < n := by
  match n with
  | 0 | 1 | 2 | 3 | 4 => simp [transmissionOfCode]
  | n + 5 => simp [transmissionOfCode]

/-- The record of SPD with a report taken, before the recomputation. -/
def reportedSpd (i : Nat) (now : Count32) (r : SpeedReport) (u : SpdUnit) : SpdUnit :=
  { freshened i r.sender now u with report := some r }

theorem portHolds_of_still {s t : State} (h : still t = still s) (p : Port) (x : Right) :
    portHolds t p x = portHolds s p x := by
  unfold portHolds
  rw [conf_of_still h]

section Decide

variable {s : State} {p : Port} {speed code flag : Word}

/-- R113: the refusals of a REPORT_SPEED. -/
theorem decideReportSpeed_refused {r : Result}
    (h : (portHolds s p .speedSource = false ∧ r = .noRight) ∨
      (portHolds s p .speedSource = true ∧ (4 < code.toNat ∨ 1 < flag.toNat) ∧
        r = .badArgument)) :
    decideReportSpeed p [speed, code, flag] s = (s, r, speedData s) := by
  rcases h with ⟨hright, rfl⟩ | ⟨hright, hbad, rfl⟩
  · simp [decideReportSpeed, hright]
  unfold decideReportSpeed
  rw [if_neg (by simp [hright])]
  split
  · rfl
  · next x hx =>
    refine if_neg fun hflag => ?_
    rcases hbad with hcode | hbad
    · rw [show argAt [speed, code, flag] 1 = code.toNat from rfl,
        (transmissionOfCode_none_iff _).mpr hcode] at hx
      cases hx
    · exact absurd hflag (Nat.not_le.mpr hbad)

/-- R113: a report taken. -/
theorem decideReportSpeed_taken {x : Transmission} (hright : portHolds s p .speedSource = true)
    (hx : transmissionOfCode code.toNat = some x) (hflag : flag.toNat ≤ 1) :
    decideReportSpeed p [speed, code, flag] s =
      (recomputeSpeed true (reportedSpd (conf s).rates.reportInterval s.timeBase
          ⟨min 1500 speed.toNat, x, flag.toNat == 1, s.timeBase, p⟩ s.spd) s,
        if 1500 < speed.toNat then .clamped else .ok,
        speedData (recomputeSpeed true (reportedSpd (conf s).rates.reportInterval s.timeBase
          ⟨min 1500 speed.toNat, x, flag.toNat == 1, s.timeBase, p⟩ s.spd) s)) := by
  unfold decideReportSpeed
  rw [if_neg (by simp [hright]), show argAt [speed, code, flag] 1 = code.toNat from rfl, hx]
  exact if_pos hflag

end Decide

/-- Settles O37. -/
theorem speedReportsAreJudgedAndTaken : Obligations.SpeedReportsAreJudgedAndTaken := by
  unfold Obligations.SpeedReportsAreJudgedAndTaken
  intro w p s speed code flag hp ha u i data
  refine ⟨fun r hs h => ?_, fun x hright hx hflag => ?_⟩
  · have hd := decideReportSpeed_refused (s := u) (p := p) (speed := speed) (code := code)
      (flag := flag) (r := r) (by rw [portHolds_advance]; exact h)
    rw [speedData_eq, advance_spd] at hd
    exact exec_answered (c := .reportSpeed w p) (w := w) rfl rfl hp hs ha hd
  · let report : SpeedReport := ⟨min 1500 speed.toNat, x, flag.toNat == 1, u.timeBase, p⟩
    let given := reportedSpd i u.timeBase report s.spd
    obtain ⟨t, heq, hstill, hrest⟩ := exec_report (c := .reportSpeed w p) (w := w) (u := given)
      (r := if 1500 < speed.toNat then .clamped else .ok) (data := data) rfl rfl hp ha
      fun v hv => by
        rw [decideReportSpeed_taken
            (by rw [portHolds_of_still hv, portHolds_advance, hright]) hx hflag,
          speedData_eq, conf_of_still hv, timeBase_of_still hv, spd_of_still hv, advance_spd,
          conf_advance]
    have hspd : t.spd = recomputed true u given := congrArg Still.spd hstill
    rw [← hspd] at hstill hrest
    have hfreshness : t.spd.freshness = (freshened i p u.timeBase s.spd).freshness := by
      simp [hspd, recomputed, given, reportedSpd, report]
    have hmeasured : given.measured = s.spd.measured := freshened_measured
    refine ⟨t, heq, hstill, hrest, by simp [hspd, recomputed, given, reportedSpd, report], ?_, ?_,
      fun hfresh => ?_, fun hstale => ?_⟩
    · simp [hspd, recomputed, hmeasured]
    · rw [hfreshness, freshened_fresh_iff]
    · rw [hfreshness] at hfresh
      obtain ⟨⟨hvalue, htransmission⟩, hagree, hbegins, hstands⟩ :=
        recomputed_fresh (s := u) (u := given) (r := report) hfresh rfl
      have hspeed : (report.speed : Int) = min 1500 (speed.toNat : Int) := by simp [report]
      rw [hmeasured, conf_advance, hspeed] at hagree hbegins hstands
      have hdisagreement : given.disagreement =
          if s.spd.freshness = .fresh then s.spd.disagreement else .agree := by
        simp only [given, reportedSpd, report, freshened_fresh hfresh]
      have htimer : given.disTimer =
          if s.spd.freshness = .fresh then s.spd.disTimer else none := by
        simp only [given, reportedSpd, report, freshened_fresh hfresh]
      rw [hspd]
      refine ⟨?_, hvalue.trans (by rw [hmeasured]), htransmission, hagree, fun hd hheld => ?_,
        fun hd hheld => ?_⟩
      · simp [recomputed, given, reportedSpd, report, freshened_fresh hfresh]
      · refine hbegins hd ?_
        rw [hdisagreement]
        split
        · next hf => exact not_not.mp fun hn => hheld ⟨hf, hn⟩
        · rfl
      · rw [if_pos hheld.1] at hdisagreement htimer
        rw [← hdisagreement, ← htimer]
        exact hstands hd (by rw [hdisagreement]; exact hheld.2)
    · rw [hfreshness] at hstale
      rw [hspd, recomputed_stale (u := given) hstale]
      simp [given, reportedSpd, report, freshened_stale hstale]

end Sys2Proof.Machine
end

section
/-! The channels, the THROTTLE line, and the input word. -/

namespace Sys2Proof.Machine

/-! ### Scans and conversions -/

/-- R132, R133: the record that a conversion gives a channel. -/
theorem converted_outside {k : Calibration} {channel code : Nat} {c : Channel}
    (h : code < k.lo ∨ k.hi < code) :
    converted k channel code c = ⟨c.value, c.goodTaken, true, 0⟩ := by
  refine if_neg fun hin => ?_
  rw [inWindow, within_iff] at hin
  omega

theorem converted_inside {k : Calibration} {channel code : Nat} {c : Channel} (hlo : k.lo ≤ code)
    (hhi : code ≤ k.hi) :
    (c.faulted = false →
      converted k channel code c = ⟨calibrated k channel code, true, false, c.run⟩) ∧
    (c.faulted = true → c.run < 2 →
      converted k channel code c = ⟨c.value, c.goodTaken, true, c.run + 1⟩) ∧
    (c.faulted = true → c.run = 2 →
      converted k channel code c = ⟨calibrated k channel code, true, false, 0⟩) := by
  have hin : inWindow k code = true := by
    rw [inWindow, within_iff]
    exact ⟨hlo, hhi⟩
  refine ⟨fun hf => ?_, fun hf hr => ?_, fun hf hr => ?_⟩
  · simp [converted, hin, hf]
  · simp [converted, hin, hf, hr]
  · simp [converted, hin, hf, hr]

/-- Settles O27. -/
theorem scansConvertTheListedChannels : Obligations.ScansConvertTheListedChannels := by
  unfold Obligations.ScansConvertTheListedChannels
  refine ⟨?_, ?_⟩
  · intro w s hp hs u hdue
    have hdue' : timerDue u.timeBase u.cnv.scanPeriod = true := by
      rw [advance_cnv]
      exact hdue
    have hscan : startScan u = { u with cnv := { s.cnv with
        toConvert := (conf s).scanList, begun := u.usCount
        scanPeriod := some ⟨u.timeBase, (conf s).rates.scanPeriod⟩ } } := by
      rw [startScan, startTimer, conf_advance, advance_cnv]
    rw [exec_running_quiet (c := .scanPeriodExpiry w) (w := w) rfl rfl hp hs] <;>
      rw [if_pos hdue', hscan]
    rw [advance_hand, hs]
  · intro w code s channel rest k hp hc hlength hlt hk u old value hdue
    obtain ⟨v, hv, heq, hrest⟩ :=
      exec_running_pass (c := .conversionCompletion w code) (w := w) rfl rfl hp
    have hcnv : v.cnv = s.cnv := (cnv_of_still hv).trans (advance_cnv _ _)
    have hus : v.usCount = u.usCount := usCount_of_still hv
    let new := converted k channel code.toNat old
    have hkd : (conf v).calibration.getD channel ⟨0, 0, 0, 0⟩ = k := by
      rw [conf_of_still hv, conf_advance, List.getD_eq_getElem?_getD, hk, Option.getD_some]
    obtain ⟨cnv', hcnv'⟩ : ∃ x : CnvUnit, x = { s.cnv with
      toConvert := rest, begun := u.usCount
      channels := replaceAt s.cnv.channels channel new } := ⟨_, rfl⟩
    obtain ⟨x, hx⟩ : ∃ x : State, x = { v with
        cnv := cnv', hand := v.hand ++ conversionHandovers v channel code.toNat old new } :=
      ⟨_, rfl⟩
    have htaken : completeConversion channel rest code.toNat v = x := by
      unfold completeConversion
      rw [if_pos hlt, takeCode_eq _ _ hlt, hx, hcnv']
      dsimp only [channelOf, conf] at hkd ⊢
      rw [hkd, hcnv, hus]
      rfl
    have hdue' : conversionTime ≤ sinceCount v.usCount s.cnv.begun := by
      rw [hus]
      exact hdue
    rw [hcnv, hc] at heq
    dsimp only at heq
    rw [if_pos hdue', htaken] at heq
    have hstill : still (takeHandovers w x) = { still u with cnv := cnv' } := by
      rw [still_takeHandovers, hx]
      show { still v with cnv := cnv' } = _
      rw [hv]
    have htcnv : (takeHandovers w x).cnv = cnv' := congrArg Still.cnv hstill
    have hchannel : ∀ n, channelOf (takeHandovers w x) n =
        if channel = n then new else channelOf s n := fun n => by
      rw [channelOf, htcnv, hcnv', replaceAt_getD]
      simp [hlength, hlt, channelOf]
    have hnew : channelOf (takeHandovers w x) channel = new := (hchannel _).trans (if_pos rfl)
    refine ⟨_, heq, htcnv ▸ hstill, fun hs => ?_, ?_, ?_, ?_,
      fun n hn => (hchannel n).trans (if_neg hn.symm), fun hout => ?_, fun hlo hhi => ?_⟩
    · rw [hnew, htcnv, hx, hrest hs, advance_hand, hs, List.nil_append]
    · rw [htcnv, hcnv']
    · rw [htcnv, hcnv']
    · rw [htcnv, hcnv']
    · rw [hnew]
      exact converted_outside hout
    · rw [hnew]
      exact converted_inside hlo hhi

/-! ### The THROTTLE line -/

theorem throttleLine_setDemand {s : State} {d : Nat} (hd : d ≠ s.gov.d) :
    throttleLine (setDemand d s) =
      match s.lio.throttle.periodStart with
      | none => false
      | some t =>
        decide (1000 ≤ min s.lio.throttle.inForce d) ||
          decide (sinceCount s.usCount t < min s.lio.throttle.inForce d * 5) := by
  rw [setDemand, if_neg hd]
  rfl

/-- Settles O28. -/
theorem throttleLineFallsAtOnceAndRisesWithTheNextPeriod :
    Obligations.ThrottleLineFallsAtOnceAndRisesWithTheNextPeriod := by
  unfold Obligations.ThrottleLineFallsAtOnceAndRisesWithTheNextPeriod
  refine ⟨?_, ?_⟩
  · intro w s start hp hs hstart u hdue
    have hlio : u.lio = s.lio := advance_lio _ _
    have heffect : (match u.lio.throttle.periodStart with
        | none => u
        | some t => if pwmPeriod ≤ sinceCount u.usCount t then startPwm u else u) = startPwm u := by
      rw [hlio, hstart]
      exact if_pos hdue
    have hpwm : startPwm u = { u with lio := { u.lio with throttle :=
        ⟨s.lio.throttle.commanded, s.lio.throttle.commanded, some u.usCount⟩ } } := by
      rw [startPwm, hlio]
    rw [← hpwm]
    refine (exec_running_quiet (c := .throttlePwmPeriodStart w) (w := w) rfl rfl hp hs ?_).trans
      (congrArg _ heffect)
    exact (congrArg State.hand heffect).trans ((advance_hand _ _).trans hs)
  · rintro s d ⟨-, -, -, -, -, -, hforce⟩ hmax
    refine ⟨fun hlt => ?_, fun hlt start hstart hle => ?_, fun hzero => ?_⟩
    · rw [throttleLine_setDemand (by omega), Nat.min_eq_left (by omega)]
      rfl
    · rw [throttleLine_setDemand (by omega), hstart, Bool.or_eq_false_iff]
      unfold sinceCount
      constructor <;> rw [decide_eq_false_iff_not] <;> omega
    · subst hzero
      by_cases hd : 0 = s.gov.d
      · have hzero : s.lio.throttle.inForce = 0 := by omega
        rw [setDemand, if_pos hd, throttleLine, hzero]
        split <;> simp
      · rw [throttleLine_setDemand hd, Nat.min_zero]
        split <;> simp

/-! ### The input word -/

/-- What LIO hands on when it publishes the input word. -/
def wordHandovers (inputs : Inputs) : List Handover :=
  [.wordToSeq (inputWord inputs), .arrival .lio .inputs (some (inputWord inputs))]

theorem publishWord_eq (s : State) :
    publishWord s = { s with hand := s.hand ++ wordHandovers s.lio.inputs } := by
  simp [publishWord, arrive, handOver, wordHandovers]

theorem published_of_still {s t : State} (h : still t = still s) :
    t.lio.published = s.lio.published := congrArg Still.published h

theorem acceptInput_eq (i : DiscreteInput) (s : State) :
    acceptInput i s =
      (let inputs := inputSet s.lio.inputs i (accepted (inputGet s.lio.inputs i))
      { s with
        lio := { s.lio with inputs := inputs }
        hand := s.hand ++ (if s.lio.published then wordHandovers inputs else []) }) := by
  unfold acceptInput
  dsimp only
  split
  · rw [publishWord_eq]
  · rw [List.append_nil]

theorem stabilityExpiry_gives (w : When) (i : DiscreteInput) (s : State)
    (hp : s.phase = .running) :
    let u := advance w.dt s
    let x := inputGet s.lio.inputs i
    let inputs := inputSet s.lio.inputs i ⟨x.raw, x.raw, none⟩
    timerDue u.timeBase x.timer = true →
      (∃ t, exec (.stabilityTimerExpiry w i) s = .next t ∧
        still t = { still u with inputs := inputs }) ∧
      (s.hand = [] →
        exec (.stabilityTimerExpiry w i) s = .next (takeHandovers w { u with
          lio := { s.lio with inputs := inputs }
          hand := if s.lio.published then wordHandovers inputs else [] })) := by
  intro u x inputs hdue
  obtain ⟨v, hv, heq, hrest⟩ :=
    exec_running_pass (c := .stabilityTimerExpiry w i) (w := w) rfl rfl hp
  have hinputs : v.lio.inputs = s.lio.inputs := (inputs_of_still hv).trans (by rw [advance_lio])
  have hdue' : timerDue v.timeBase (inputGet v.lio.inputs i).timer = true := by
    rw [timeBase_of_still hv, hinputs]
    exact hdue
  have hacc : accepted x = ⟨x.raw, x.raw, none⟩ := rfl
  rw [if_pos hdue', acceptInput_eq, hinputs, hacc] at heq
  dsimp only at heq
  refine ⟨⟨_, heq, ?_⟩, fun hs => ?_⟩
  · rw [still_takeHandovers]
    show { still v with inputs := inputs } = _
    rw [hv]
  · rw [heq, hrest hs, advance_lio, advance_hand, hs, List.nil_append]

theorem settleExpiry_gives (w : When) (s : State) (hp : s.phase = .running) :
    let u := advance w.dt s
    timerDue u.timeBase s.lio.settle = true →
      (∃ t, exec (.settleIntervalExpiry w) s = .next t ∧
        still t = { still u with settle := none, published := true }) ∧
      (s.hand = [] →
        exec (.settleIntervalExpiry w) s = .next (takeHandovers w { u with
          lio := { s.lio with settle := none, published := true }
          hand := wordHandovers s.lio.inputs })) := by
  intro u hdue
  obtain ⟨v, hv, heq, hrest⟩ := exec_running_pass (c := .settleIntervalExpiry w) (w := w) rfl rfl hp
  have hdue' : timerDue v.timeBase v.lio.settle = true := by
    rw [timeBase_of_still hv, settle_of_still hv, advance_lio]
    exact hdue
  rw [if_pos hdue', publishWord_eq] at heq
  refine ⟨⟨_, heq, ?_⟩, fun hs => ?_⟩
  · rw [still_takeHandovers]
    show { still v with settle := none, published := true } = _
    rw [hv]
  · rw [heq, hrest hs, advance_lio, advance_hand, hs, List.nil_append]

/-- R10: SEQ's state when a shift-in completes, before a PTO block acts. -/
def pumpingOutcome (s : State) : State :=
  { s with
    seq := { s.seq with
      mode := .pump, sub := none, reason := .condition, request := none
      startWait := none, shiftTimer := none, spinLimit := none, releaseTimer := none
      ptoShift := true, pumpReady := !holdsBlock s.seq.blocks .throttle }
    hand := s.hand ++ modeNotice s .condition .pump none .shiftingIn s.seq.sub ::
      modeHandovers .pump ++ outcomeNotices s s.seq.request .completed 0 }

theorem completeShift_eq {s : State} (hm : s.seq.mode = .shiftingIn) :
    completeShift s =
      if holdsBlock s.seq.blocks .pto = false then pumpingOutcome s
      else spinDownOutcome (pumpingOutcome s) .block none := by
  have hpump : closeRequest .completed (transition .pump none .condition s) = pumpingOutcome s := by
    rw [closeRequest_eq, transition_eq, hm]
    simp [pumpingOutcome, ptoShiftFor, pumpReadyFor, outcomeNotices, notice]
  rw [completeShift, hpump, actOnPtoBlock_eq]
  rfl

/-- R7, R10, R11, R14, R15, R19, R21, R23: SEQ takes a publication of the input word. -/
theorem seqTakesWord_of_shiftingIn (word : Nat) {s : State} (hm : s.seq.mode = .shiftingIn) :
    seqTakesWord word s =
      if wordFeedback word then completeShift s
      else if wordSecured word then s else abandonShift .condition .aborted s := by
  rw [seqTakesWord, hm]

/-- R19, R21, R23: the modes in which the feedback as it stands decides. -/
theorem seqTakesWord_of_engaged (word : Nat) {s : State}
    (hm : s.seq.mode = .pump ∨ s.seq.mode = .roll ∨ s.seq.mode = .disengaging ∨
      s.seq.mode = .stuck) :
    seqTakesWord word s =
      if feedback s then s
      else if s.seq.mode = .stuck then transition (derivedMode s) none .condition s
      else if s.seq.mode = .disengaging ∧ s.seq.sub = some .release then completeRelease s
      else enterRelease .feedbackLost s := by
  unfold seqTakesWord
  rcases hm with hm | hm | hm | hm <;> rw [hm] <;> simp

theorem seqTakesWord_of_standing (word : Nat) {s : State}
    (hm : s.seq.mode = .road ∨ s.seq.mode = .parked) :
    seqTakesWord word s = rederivedOutcome s := by
  unfold seqTakesWord
  rcases hm with hm | hm <;> rw [hm] <;> simp [rederive_eq, hm, standing]

theorem seqTakesWord_of_init (word : Nat) {s : State} (hm : s.seq.mode = .init) :
    seqTakesWord word s = s := by
  rw [seqTakesWord, hm]

/-- Settles O24. -/
theorem inputChangesAreAcceptedAndPublished : Obligations.InputChangesAreAcceptedAndPublished := by
  unfold Obligations.InputChangesAreAcceptedAndPublished
  refine ⟨fun w i s hp => ⟨stabilityExpiry_gives w i s hp, settleExpiry_gives w s hp⟩,
    fun word s => ?_, fun inputs => ⟨wordFeedback_inputWord _, wordSecured_inputWord _⟩,
    fun v s hl => sourceSlot_lktTakesArrival .inputs (some v) s hl⟩
  intro t
  refine ⟨fun hm => ?_, fun hm hf => ?_, fun hm hsub hf => ?_, fun hm hf => ?_, fun hm hf => ?_,
    fun hm => seqTakesWord_of_standing word hm, fun hm => seqTakesWord_of_init word hm⟩
  · have ht : t = _ := seqTakesWord_of_shiftingIn word hm
    rw [completeShift_eq hm, abandonShift_eq] at ht
    refine ⟨fun hf hb => ?_, fun hf hb => ?_, fun hf hsec => ?_, fun hf hsec => ?_⟩ <;>
      rw [ht, hf]
    · rw [if_pos rfl, if_pos hb, pumpingOutcome]
    · rw [if_pos rfl, if_neg (by simp [hb])]
      rfl
    · rw [if_neg Bool.false_ne_true, hsec, if_neg Bool.false_ne_true]
    · rw [if_neg Bool.false_ne_true, hsec, if_pos rfl]
  · have ht : t = _ := seqTakesWord_of_engaged word (s := s) (by tauto)
    rw [hf, if_neg Bool.false_ne_true, if_neg, if_neg, enterRelease_eq] at ht
    · exact ht
    · rcases hm with hm | hm | ⟨hm, hsub⟩ <;> simp_all
    · rcases hm with hm | hm | ⟨hm, hsub⟩ <;> simp [hm]
  · have ht : t = _ := seqTakesWord_of_engaged word (s := s) (by tauto)
    rw [hf, if_neg Bool.false_ne_true, if_neg (by simp [hm]), if_pos ⟨hm, hsub⟩,
      completeRelease_eq (by rw [hm]; rfl), hm, hsub] at ht
    exact ht
  · have ht : t = _ := seqTakesWord_of_engaged word (s := s) (by tauto)
    rw [hf, if_neg Bool.false_ne_true, if_pos hm, transition_derived _ _ _ rfl ?_, hm] at ht
    · exact ht
    · rw [hm]
      rcases derivedMode_cases s with h | h <;> rw [h] <;> decide
  · exact (seqTakesWord_of_engaged word hm).trans (by rw [hf, if_pos rfl])

end Sys2Proof.Machine
end

section
/-! The link of a port, and READ_STATUS. -/

namespace Sys2Proof.Machine

/-! ### Words packed of fields -/

theorem bit_lt (b : Bool) : bit b < 2 := by cases b <;> decide

theorem portCode_lt (p : Port) : portCode p < 3 := by cases p <;> decide

theorem holderCode_lt (p : Option Port) : holderCode p < 4 := by
  rcases p with _ | p
  · decide
  · cases p <;> decide

theorem modeCode_lt (m : Mode) : modeCode m < 8 := by cases m <;> decide

theorem subStageCode_lt (x : Option SubStage) : subStageCode x < 4 := by
  rcases x with _ | x
  · decide
  · cases x <;> decide

theorem reasonCode_lt (x : Reason) : reasonCode x < 8 := by cases x <;> decide

theorem operationCode_lt (x : OperationKind) : operationCode x < 4 := by cases x <;> decide

theorem governingCode_lt (x : GoverningMode) : governingCode x < 4 := by cases x <;> decide

theorem watchCode_lt (x : IntakeWatch) : watchCode x < 4 := by cases x <;> decide

theorem tankStateCode_lt (x : TankState) : tankStateCode x < 8 := by cases x <;> decide

theorem transmissionCode_lt (x : Transmission) : transmissionCode x < 8 := by cases x <;> decide

theorem freshnessCode_lt (x : Freshness) : freshnessCode x < 2 := by cases x <;> decide

theorem disagreementCode_lt (x : Disagreement) : disagreementCode x < 4 := by cases x <;> decide

theorem qualityCode_lt (x : Quality) : qualityCode x < 2 := by cases x <;> decide

theorem degradedCause_lt (u : SpdUnit) : degradedCause u < 4 := by
  unfold degradedCause
  split <;> decide

theorem resultCode_lt (x : Result) : resultCode x < 16 := by cases x <;> decide

theorem requestCode_lt (x : RequestKind) : requestCode x < 256 := by cases x <;> decide

theorem inputWord_lt (u : Inputs) : inputWord u < 16 := by
  have h1 := bit_lt u.parkBrake.debounced
  have h2 := bit_lt u.neutralSense.debounced
  have h3 := bit_lt u.ptoFeedback.debounced
  have h4 := bit_lt u.panelStop.debounced
  unfold inputWord
  omega

/-! ### The link -/

/-- A command that changes one port's link alone. -/
theorem exec_updateLink {c : Instr} {w : When} {p : Port} {f : Link → Link} {s : State}
    (hw : whenOf c = w) (hs : s.hand = [])
    (hc : effectOf c (advance w.dt s) = updateLink p f (advance w.dt s)) :
    exec c s = .next { advance w.dt s with
      links := portSet s.links p (f (portGet s.links p)) } := by
  rw [exec_at_rest c hs, hw, hc, takeHandovers_of_hand_nil, updateLink, advance_links]
  exact (advance_hand _ _).trans hs

theorem statusWord_eq (s : State) (p : Port) :
    statusWord s p = wordOfNat (modeCode s.seq.mode + 8 * bit s.lkt.drivePermit +
      16 * bit ((portGet s.ntq p).queue != []) + 32 * bit (portGet s.links p).frameError +
      64 * bit s.cfg.storeBusy + 128 * bit s.cfg.configInvalid +
      256 * bit ((portGet s.ntq p).lost != 0)) := by
  have hattention : attention (portGet s.ntq p) = ((portGet s.ntq p).queue != []) := by
    unfold attention
    cases (portGet s.ntq p).queue <;> rfl
  unfold statusWord packWord
  rw [hattention]
  congr 1
  have h0 := modeCode_lt s.seq.mode
  have h1 := bit_lt s.lkt.drivePermit
  have h2 := bit_lt ((portGet s.ntq p).queue != [])
  have h3 := bit_lt (portGet s.links p).frameError
  have h4 := bit_lt s.cfg.storeBusy
  have h5 := bit_lt s.cfg.configInvalid
  have h6 := bit_lt ((portGet s.ntq p).lost != 0)
  simp only [packFields]
  omega

/-- R142: the words of a pending answer. -/
theorem answerWords_some (a : Answer) :
    answerWords (some a) = wordOfNat (256 * requestCode a.request + 16 * resultCode a.result +
      a.data.length % 16) :: a.data := by
  unfold answerWords packWord
  refine congrArg (wordOfNat · :: a.data) ?_
  have h1 := requestCode_lt a.request
  have h2 := resultCode_lt a.result
  simp only [packFields]
  omega

theorem statusWord_advance (dt : Nat) (s : State) (p : Port) :
    statusWord (advance dt s) p = statusWord s p := by
  unfold statusWord
  simp

/-- Settles O29. -/
theorem selectFallOpensAFrame : Obligations.SelectFallOpensAFrame := by
  unfold Obligations.SelectFallOpensAFrame
  intro w p s hp hs u l queue status hhigh
  have hstatus : statusWord u p = status := (statusWord_advance _ _ _).trans (statusWord_eq s p)
  have heffect : effectOf (.selectFall w p) u = updateLink p (linkAtFall status) u := by
    have hrun : u.phase = .running := (advance_phase _ _).trans hp
    have hlow : (portGet u.links p).selectLow = false := by
      rw [advance_links]
      exact hhigh
    dsimp only [effectOf]
    rw [if_pos hrun, hlow, if_neg Bool.false_ne_true, hstatus]
  refine ⟨_, exec_updateLink (c := .selectFall w p) (w := w) rfl hs heffect, ?_, fun hstate => ?_,
    fun hidle => ?_, fun hpreparing => ?_⟩
  · rw [portGet_portSet_same]
  all_goals rw [portGet_portSet_same]; change _ at l
  · rcases hstate with h | h <;> simp [linkAtFall, l, h]
  · have hl : linkAtFall status l = { l with
        state := .receiving, words := 0, header := none, args := [], discard := false
        outgoing := some (status :: answerWords l.answer), answer := none, frameError := false
        selectLow := true, wordOut := 0 } := by
      rw [linkAtFall, hidle]
    rw [hl]
    refine ⟨rfl, rfl, fun hnone => ?_, fun a ha => ?_⟩
    · rw [hnone, answerWords]
    · rw [ha, answerWords_some]
  · have hl : linkAtFall status l = { l with
        state := .receiving, words := 0, header := none, args := [], discard := true
        outgoing := some [status, 0], frameError := false, selectLow := true, wordOut := 0 } := by
      rw [linkAtFall, hpreparing]
    rw [hl]
    exact ⟨rfl, rfl, rfl⟩

/-- Settles O30. -/
theorem wordsAreTakenIn : Obligations.WordsAreTakenIn := by
  unfold Obligations.WordsAreTakenIn
  intro w p word s hs u l hrec hl
  refine ⟨_, exec_updateLink (c := .wordCompletion w p word) (w := w) rfl hs rfl, ?_, ?_⟩
  · rw [portGet_portSet_same]
  rw [portGet_portSet_same]
  obtain ⟨-, -, -, -, hwords, hheader, hargs, -⟩ := hl
  have hlink : linkAtWord word l = { l with
      words := min 11 (l.words + 1)
      header := if l.words = 0 then some (headerOf word) else l.header
      args :=
        if 1 ≤ l.words ∧ l.words ≤ 9 ∧ l.words ≤ (l.header.map Header.count).getD 0 then
          l.args ++ [word]
        else l.args
      discard := l.discard || decide (10 ≤ l.words)
      wordOut := (l.outgoing.getD []).getD l.words 0 } := by
    rw [linkAtWord, hrec]
  change (linkAtWord word l).words = _ ∧ _
  rw [show portGet s.links p = l from rfl, hlink]
  refine ⟨?_, fun hzero => ⟨?_, ?_⟩, fun h hh => ⟨?_, fun hin => ?_, fun hout => ?_⟩,
    fun hmany => ?_, fun hfew => ?_, rfl, rfl⟩
  · dsimp only
    split <;> omega
  · exact if_pos hzero
  · refine (if_neg fun h => ?_).trans (List.length_eq_zero_iff.mp (by omega))
    omega
  · refine (if_neg fun hzero => ?_).trans hh
    rw [hh, hzero] at hheader
    cases hheader
  · refine if_pos ⟨?_, by omega, ?_⟩
    · by_contra hzero
      rw [hh, show l.words = 0 by omega] at hheader
      cases hheader
    · rw [hh]
      exact hin.1
  · refine if_neg fun hin => ?_
    rw [hh] at hin
    simp only [Option.map_some, Option.getD_some] at hin
    omega
  · simp [hmany]
  · simp [Nat.not_le.mpr hfew]

/-- R140: the frames that are handed on. -/
theorem requestOfFrame_eq_some_iff {part : Bool} {l : Link} {k : RequestKind} :
    requestOfFrame part l = some k ↔ part = false ∧ l.discard = false ∧
      ∃ h, l.header = some h ∧ requestOfCode h.kind = some k ∧ h.count = argumentCount k ∧
        1 + h.count ≤ l.words := by
  constructor
  · intro h
    obtain ⟨header, hh, hk, hpart, hdiscard, hcount, hwords⟩ := requestOfFrame_some h
    exact ⟨hpart, hdiscard, header, hh, hk, hcount, hwords⟩
  · rintro ⟨hpart, hdiscard, header, hh, hk, hcount, hwords⟩
    simp only [requestOfFrame, hh, hk]
    refine if_neg ?_
    simp [hpart, hdiscard, hcount]
    omega

section Rise

variable {part : Bool} {l : Link}

theorem linkAtRise_handed {k : RequestKind} (hrec : l.state = .receiving)
    (hk : requestOfFrame part l = some k) :
    linkAtRise part l = { l with
      state := .preparing, preparation := some (.asked k l.args)
      words := 0, header := none, args := [], discard := false, outgoing := none
      selectLow := false, wordOut := 0 } := by
  simp [linkAtRise, hrec, hk]

theorem linkAtRise_discarded (hrec : l.state = .receiving)
    (hk : requestOfFrame part l = none) :
    linkAtRise part l = { l with
      state := if l.preparation = none then .idle else .preparing, frameError := true
      words := 0, header := none, args := [], discard := false, outgoing := none
      selectLow := false, wordOut := 0 } := by
  cases hprep : l.preparation <;> simp [linkAtRise, hrec, hk, hprep]

end Rise

/-- Settles O31. -/
theorem selectRiseHandsOnOrDiscards : Obligations.SelectRiseHandsOnOrDiscards := by
  unfold Obligations.SelectRiseHandsOnOrDiscards
  intro w p part s hs u l hrec hl
  refine ⟨_, exec_updateLink (c := .selectRise w p part) (w := w) rfl hs rfl, ?_, ?_⟩
  · rw [portGet_portSet_same]
  rw [portGet_portSet_same]
  refine ⟨fun k hk => ?_, fun hflawed => ?_, ?_⟩
  · have hsome : requestOfFrame part l = some k := requestOfFrame_eq_some_iff.mpr hk
    rw [show portGet s.links p = l from rfl, linkAtRise_handed hrec hsome]
    exact ⟨rfl, rfl, args_of_requestOfFrame hl hsome, rfl⟩
  · have hnone : requestOfFrame part l = none := by
      rw [Option.eq_none_iff_forall_ne_some]
      intro k hk
      obtain ⟨hpart, hdiscard, header, hh, hcode, hcount, hwords⟩ :=
        requestOfFrame_eq_some_iff.mp hk
      rcases hflawed with h | h | h | h
      · cases hpart.symm.trans h
      · cases hdiscard.symm.trans h
      · omega
      · rcases h header hh k hcode with h | h
        · exact h hcount
        · omega
    rw [show portGet s.links p = l from rfl, linkAtRise_discarded hrec hnone]
    exact ⟨rfl, rfl, rfl⟩
  · show (linkAtRise part l).answer = l.answer
    cases hk : requestOfFrame part l with
    | some k => rw [linkAtRise_handed hrec hk]
    | none => rw [linkAtRise_discarded hrec hk]

/-- Settles O32. -/
theorem answerBecomesPending : Obligations.AnswerBecomesPending := by
  unfold Obligations.AnswerBecomesPending
  intro w p s a hs u l ha
  rw [exec_updateLink (c := .answerCompletion w p) (w := w) rfl hs rfl, linkAtAnswer]
  have ha' : (portGet s.links p).preparation = some (.answered a) := ha
  rw [ha']

/-! ### READ_STATUS -/

section Pages

variable (s : State)

theorem statusPage_advance (dt n : Nat) : statusPage (advance dt s) n = statusPage s n := by
  unfold statusPage statusPage0 statusPage1 statusPage2 statusPage3 statusPage4 statusPage5
    statusPage6
  simp

theorem packed_modes : packWord [(3, modeCode s.seq.mode), (2, subStageCode s.seq.sub),
      (3, reasonCode s.seq.reason)] =
    wordOfNat
      (modeCode s.seq.mode + 8 * subStageCode s.seq.sub + 32 * reasonCode s.seq.reason) := by
  have h1 := modeCode_lt s.seq.mode
  have h2 := subStageCode_lt s.seq.sub
  have h3 := reasonCode_lt s.seq.reason
  unfold packWord
  congr 1
  simp only [packFields]
  omega

theorem packed_request (r : OpenRequest) :
    packWord [(1, 1), (2, portCode r.requester), (2, operationCode r.kind)] =
      wordOfNat (1 + 2 * portCode r.requester + 8 * operationCode r.kind) := by
  have h1 := portCode_lt r.requester
  have h2 := operationCode_lt r.kind
  unfold packWord
  congr 1
  simp only [packFields]
  omega

theorem packed_blocks : packWord [(6, s.lkt.blocks.toNat), (2, holderCode s.lkt.lock)] =
    wordOfNat (s.lkt.blocks.toNat + 64 * holderCode s.lkt.lock) := by
  have h1 := s.lkt.blocks.isLt
  have h2 := holderCode_lt s.lkt.lock
  unfold packWord
  congr 1
  simp only [packFields]
  omega

theorem packed_bits (a b c d e f : Bool) :
    packWord [(1, bit a), (1, bit b), (1, bit c), (1, bit d), (1, bit e), (1, bit f)] =
      wordOfNat (bit a + 2 * bit b + 4 * bit c + 8 * bit d + 16 * bit e + 32 * bit f) := by
  have h1 := bit_lt a
  have h2 := bit_lt b
  have h3 := bit_lt c
  have h4 := bit_lt d
  have h5 := bit_lt e
  have h6 := bit_lt f
  unfold packWord
  congr 1
  simp only [packFields]
  omega

theorem packed_inputs :
    packWord [(4, if s.lio.published then inputWord s.lio.inputs else 0),
      (1, bit (!s.lio.published))] =
    if s.lio.published then wordOfNat (inputWord s.lio.inputs) else 16 := by
  have h := inputWord_lt s.lio.inputs
  unfold packWord
  split
  · next hp =>
    congr 1
    simp only [hp, packFields, bit]
    simp
    omega
  · next hp => simp [hp, packFields, bit, wordOfNat]

theorem statusPage0_eq {request : List Word} (hnone : s.seq.request = none → request = [0, 0])
    (hsome : ∀ r, s.seq.request = some r → request =
      [wordOfNat (1 + 2 * portCode r.requester + 8 * operationCode r.kind),
        r.taken.setWidth 16]) :
    statusPage0 s =
      [wordOfNat
          (modeCode s.seq.mode + 8 * subStageCode s.seq.sub + 32 * reasonCode s.seq.reason)] ++
        request ++
        [wordOfNat (s.lkt.blocks.toNat + 64 * holderCode s.lkt.lock),
          wordOfNat (bit s.seq.ptoShift + 2 * bit s.tnk.tankValve + 4 * bit s.tnk.fillValve +
            8 * bit (s.lio.throttle.commanded != 0) + 16 * bit s.lkt.drivePermit +
            32 * bit s.seq.pumpReady),
          (if s.lio.published then wordOfNat (inputWord s.lio.inputs) else 16),
          wordOfNat s.lio.np] := by
  rw [statusPage0, packed_modes, packed_blocks, packed_bits, packed_inputs]
  cases h : s.seq.request with
  | none =>
    rw [hnone h]
    rfl
  | some r =>
    rw [hsome r h, ← packed_request]
    rfl

theorem packed_governor (u : GovUnit) :
    packWord [(2, governingCode u.governing), (2, watchCode u.watch), (1, bit u.faultMark)] =
      wordOfNat (governingCode u.governing + 4 * watchCode u.watch + 16 * bit u.faultMark) := by
  have h1 := governingCode_lt u.governing
  have h2 := watchCode_lt u.watch
  have h3 := bit_lt u.faultMark
  unfold packWord
  congr 1
  simp only [packFields]
  omega

theorem packed_tanks (x y : TankState) (z : Supply) (a b c d : Bool) :
    packWord [(3, tankStateCode x), (3, tankStateCode y), (1, supplyCode z), (1, bit a),
      (1, bit b), (1, bit c), (1, bit d)] =
    wordOfNat (tankStateCode x + 8 * tankStateCode y + 64 * supplyCode z + 128 * bit a +
      256 * bit b + 512 * bit c + 1024 * bit d) := by
  have h1 := tankStateCode_lt x
  have h2 := tankStateCode_lt y
  have h3 := supplyCode_le z
  have h4 := bit_lt a
  have h5 := bit_lt b
  have h6 := bit_lt c
  have h7 := bit_lt d
  unfold packWord
  congr 1
  simp only [packFields]
  omega

theorem packed_fill (f : Fill) :
    packWord [(1, 1), (2, portCode f.requester), (1, bit f.suspended)] =
      wordOfNat (1 + 2 * portCode f.requester + 8 * bit f.suspended) := by
  have h1 := portCode_lt f.requester
  have h2 := bit_lt f.suspended
  unfold packWord
  congr 1
  simp only [packFields]
  omega

theorem packed_report (r : SpeedReport) :
    packWord [(1, 1), (3, transmissionCode r.transmission), (1, bit r.engine),
      (2, portCode r.sender)] =
    wordOfNat (1 + 2 * transmissionCode r.transmission + 16 * bit r.engine +
      32 * portCode r.sender) := by
  have h1 := transmissionCode_lt r.transmission
  have h2 := bit_lt r.engine
  have h3 := portCode_lt r.sender
  unfold packWord
  congr 1
  simp only [packFields]
  omega

theorem packed_speed (u : SpdUnit) :
    packWord [(1, freshnessCode u.freshness), (2, disagreementCode u.disagreement),
      (1, qualityCode (quality u)), (2, degradedCause u), (3, transmissionCode u.transmission)] =
    wordOfNat (freshnessCode u.freshness + 2 * disagreementCode u.disagreement +
      8 * qualityCode (quality u) + 16 * degradedCause u +
      64 * transmissionCode u.transmission) := by
  have h1 := freshnessCode_lt u.freshness
  have h2 := disagreementCode_lt u.disagreement
  have h3 := qualityCode_lt (quality u)
  have h4 := degradedCause_lt u
  have h5 := transmissionCode_lt u.transmission
  unfold packWord
  congr 1
  simp only [packFields]
  omega

theorem statusPage4_eq {report : List Word} (hnone : s.spd.report = none → report = [0, 0, 0])
    (hsome : ∀ r, s.spd.report = some r → report =
      [wordOfNat (1 + 2 * transmissionCode r.transmission + 16 * bit r.engine +
          32 * portCode r.sender),
        wordOfNat r.speed, r.arrival.setWidth 16]) :
    statusPage4 s = report ++
      [wordOfNat (freshnessCode s.spd.freshness + 2 * disagreementCode s.spd.disagreement +
          8 * qualityCode (quality s.spd) + 16 * degradedCause s.spd +
          64 * transmissionCode s.spd.transmission),
        wordOfNat s.spd.measured, wordOfNat s.spd.value] := by
  rw [statusPage4, packed_speed]
  cases h : s.spd.report with
  | none => rw [hnone h]
  | some r =>
    rw [hsome r h, ← packed_report]
    rfl

theorem packed_marks (f g : Nat → Bool) :
    packWord ([0, 1, 2, 3, 4, 5, 6, 7].map (fun n => (1, bit (f n))) ++
      [0, 1, 2, 3, 4, 5, 6, 7].map (fun n => (1, bit (g n)))) =
    wordOfNat (((List.range 8).map fun n => bit (f n) * 2 ^ n).sum +
      ((List.range 8).map fun n => bit (g n) * 2 ^ (8 + n)).sum) := by
  have hbit : ∀ b, bit b % 2 ^ 1 = bit b := fun b => Nat.mod_eq_of_lt (bit_lt b)
  refine congrArg wordOfNat ?_
  rw [show List.range 8 = [0, 1, 2, 3, 4, 5, 6, 7] from rfl]
  simp only [List.map_cons, List.map_nil, List.cons_append, List.nil_append, packFields, hbit,
    List.sum_cons, List.sum_nil]
  ring

theorem packed_runs {f : Nat → Nat} (hf : ∀ n < 8, f n ≤ 2) :
    packWord ([0, 1, 2, 3, 4, 5, 6, 7].map fun n => (2, f n)) =
      wordOfNat ((List.range 8).map fun n => f n * 4 ^ n).sum := by
  have hmod : ∀ n < 8, f n % 2 ^ 2 = f n := fun n hn =>
    Nat.mod_eq_of_lt ((hf n hn).trans_lt (by decide))
  refine congrArg wordOfNat ?_
  rw [show List.range 8 = [0, 1, 2, 3, 4, 5, 6, 7] from rfl]
  simp only [List.map_cons, List.map_nil, packFields, List.sum_cons, List.sum_nil]
  rw [hmod 0, hmod 1, hmod 2, hmod 3, hmod 4, hmod 5, hmod 6, hmod 7]
  · ring
  all_goals decide

end Pages

section Decide

variable {s : State} {args : List Word}

theorem decideReadStatus_of_some {data : List Word}
    (h : statusPage s (argAt args 0) = some data) :
    decideReadStatus args s = (s, .ok, data) := by
  rw [decideReadStatus, h]

theorem decideReadStatus_of_none (h : statusPage s (argAt args 0) = none) :
    decideReadStatus args s = (s, .badArgument, []) := by
  rw [decideReadStatus, h]
  rfl

end Decide

/-- Settles O33. -/
theorem readStatusShowsAPage : Obligations.ReadStatusShowsAPage := by
  unfold Obligations.ReadStatusShowsAPage
  intro w p s page hp hs ha u shows at0 sum
  have hshows : ∀ data, statusPage s page.toNat = some data → shows data := fun data h => by
    refine exec_answered (c := .readStatus w p) (w := w) rfl rfl hp hs ha ?_
    exact decideReadStatus_of_some ((statusPage_advance s w.dt _).trans h)
  refine ⟨fun hpage request hnone hsome => hshows _ ?_, fun hpage => hshows _ ?_,
    fun hpage => hshows _ ?_,
    fun hpage => ⟨fun hnone => hshows _ ?_, fun f hsome => hshows _ ?_⟩,
    fun hpage report hnone hsome => hshows _ ?_, fun hpage => hshows _ ?_,
    fun hpage hsound => hshows _ ?_, fun hpage => ?_⟩
  any_goals subst hpage
  · exact congrArg some (statusPage0_eq s hnone hsome)
  · refine congrArg some ?_
    rw [statusPage1, packed_governor]
  · refine congrArg some ?_
    rw [statusPage2, packed_tanks]
    rfl
  · refine congrArg some ?_
    rw [statusPage3, hnone]
  · refine congrArg some ?_
    rw [statusPage3, hsome]
    dsimp only
    rw [packed_fill]
    rfl
  · exact congrArg some (statusPage4_eq s hnone hsome)
  · rfl
  · refine congrArg some ?_
    rw [statusPage6, packed_marks (fun n => (channelOf s n).faulted)
      (fun n => (channelOf s n).goodTaken), packed_runs fun n hn => (hsound.2 n hn).2.1]
  · refine exec_answered (c := .readStatus w p) (w := w) rfl rfl hp hs ha ?_
    obtain ⟨n, hn⟩ : ∃ n, page.toNat = n + 7 := ⟨_, (Nat.sub_add_cancel hpage).symm⟩
    exact decideReadStatus_of_none (congrArg (statusPage u) hn)

end Sys2Proof.Machine
end

section
/-! What the hand-overs within a step can bring about: the rows that stay out of effect, and SEQ's
record where nothing it is handed moves it. -/

namespace Sys2Proof.Machine

/-! ### Rows that stay out of effect -/

section Rows

variable {s : State} {i : Nat} {r : RowRecord} {slot : RowSlot}

/-- Row `i` with record `r` cannot come into effect at an evaluation: it has a hold, or its
condition is FALSE. -/
def Restrained (s : State) (i : Nat) (r : RowRecord) : Prop :=
  r.hold ≠ 0 ∨ condition s i r false = false

theorem evaluated_out_of_effect (hr : Restrained s i r) (hslot : inEffect slot.state = false) :
    inEffect (evaluated s i r slot).state = false := by
  unfold evaluated
  split
  · next hclear =>
    rcases hr with hhold | hcond
    · rw [if_neg hhold]
      split <;> rfl
    · rw [hcond]
      rfl
  · split
    · exact hslot
    · rfl
  · next hactive =>
    rw [hactive] at hslot
    cases hslot
  all_goals exact hslot

theorem placed_out_of_effect (hr : Restrained s i r) : inEffect (placed s i r).state = false := by
  unfold placed
  repeat' split
  · rfl
  · exact evaluated_out_of_effect hr rfl
  · exact evaluated_out_of_effect hr rfl
  · rfl

theorem precursorLeft_out_of_effect (hslot : inEffect slot.state = false) :
    inEffect (precursorLeft r slot).state = false := by
  unfold precursorLeft
  split
  · rfl
  · rfl
  · next hactive =>
    rw [hactive] at hslot
    cases hslot
  all_goals exact hslot

theorem precursorCame_out_of_effect (hr : Restrained s i r)
    (hslot : inEffect slot.state = false) : inEffect (precursorCame s i r slot).state = false := by
  unfold precursorCame
  split
  · exact placed_out_of_effect hr
  all_goals exact hslot

theorem afterPrecursor_out_of_effect (before : List RowSlot) (hr : Restrained s i r)
    (hslot : inEffect slot.state = false) :
    inEffect (afterPrecursor before s i r slot).state = false := by
  unfold afterPrecursor
  split
  · exact hslot
  split
  · exact precursorLeft_out_of_effect hslot
  · exact precursorCame_out_of_effect hr hslot
  · exact hslot

theorem atModeChange_out_of_effect (hr : Restrained s i r)
    (hslot : inEffect slot.state = false) :
    inEffect (atModeChange s i r slot).state = false := by
  unfold atModeChange
  split
  · split
    · exact placed_out_of_effect hr
    all_goals exact evaluated_out_of_effect hr hslot
  · split
    · next hactive =>
      rw [hactive] at hslot
      cases hslot
    · rfl
    · rfl
    · rfl
    · rfl
    · exact hslot

/-- No event but the expiry of a hold brings a restrained row into effect. -/
theorem atEvent_out_of_effect {ev : RowEvent} (hev : ∀ row, ev ≠ .expiry row)
    (hr : Restrained s i r) (hslot : inEffect slot.state = false) :
    inEffect (atEvent ev s i r slot).state = false := by
  cases ev with
  | arrival x =>
    dsimp only [atEvent]
    split
    · exact evaluated_out_of_effect hr hslot
    · exact hslot
  | expiry row => exact absurd rfl (hev row)
  | modeChange => exact atModeChange_out_of_effect hr hslot
  | place row =>
    dsimp only [atEvent]
    split
    · exact placed_out_of_effect hr
    · exact hslot
  | placeAll => exact placed_out_of_effect hr

theorem midway_out_of_effect {ev : RowEvent} (hev : ∀ row, ev ≠ .expiry row)
    (hr : Restrained s i (rowRecord (conf s) i)) (hslot : inEffect (rowSlot s i).state = false)
    (n : Nat) : inEffect (rowSlot (midway ev s n) i).state = false := by
  induction n with
  | zero => exact hslot
  | succ n ih =>
    have hconf : conf (midway ev s n) = conf s := by rw [midway_frame]; rfl
    rw [midway_succ]
    unfold treatRow
    dsimp only [rowSlot]
    rw [replaceAt_getD]
    split
    · next hn =>
      obtain ⟨rfl, -⟩ := hn
      have hr' : Restrained (midway ev s n) n (rowRecord (conf (midway ev s n)) n) := by
        rw [hconf, Restrained, condition_midway]
        exact hr
      exact atEvent_out_of_effect hev hr' (afterPrecursor_out_of_effect _ hr' ih)
    · exact ih

theorem handleRows_out_of_effect {ev : RowEvent} (hev : ∀ row, ev ≠ .expiry row)
    (hr : Restrained s i (rowRecord (conf s) i)) (hslot : inEffect (rowSlot s i).state = false) :
    inEffect (rowSlot (handleRows ev s) i).state = false := by
  rw [rowSlot, (handleRows_lkt ev s).1]
  exact midway_out_of_effect hev hr hslot 24

end Rows

/-! ### Blocks that cannot come about -/

section Unblocked

variable {s t : State}

theorem restrained_row3 (h : (conf s).fixedRows.hold3 ≠ 0) :
    Restrained s 3 (rowRecord (conf s) 3) := .inl h

theorem restrained_row8 (h : (sourceSlot s .configInvalid).latest = some 0) :
    Restrained s 8 (rowRecord (conf s) 8) := by
  refine .inr ?_
  have hrow : rowRecord (conf s) 8 =
    ⟨true, .configInvalid, .maskedEqual, 1, 1, 0, 0xFF, none, 0, false, 0x22, false⟩ := rfl
  rw [hrow]
  unfold condition
  simp only [sourceFaulted, h]
  rfl

theorem restrained_row11 (h : ∀ v ∈ (sourceSlot s .inputs).latest, maskedSame v 8 8 = false) :
    Restrained s 11 (rowRecord (conf s) 11) := by
  refine .inr ?_
  have hrow : rowRecord (conf s) 11 =
    ⟨true, .inputs, .maskedEqual, 8, 8, 0, 0xFF, none, 0, true, 0x0A, false⟩ := rfl
  rw [hrow]
  unfold condition
  simp only [sourceFaulted]
  cases hv : (sourceSlot s .inputs).latest with
  | none => rfl
  | some v => exact h v hv

theorem Unblocked.of_eq (h : Unblocked s) (hl : t.lkt = s.lkt) (hc : t.cfg = s.cfg) :
    Unblocked t := by
  unfold Unblocked rowSlot sourceSlot conf at h ⊢
  rw [hl, hc]
  exact h

theorem Unblocked.handled (h : Unblocked s) {ev : RowEvent} (hev : ∀ row, ev ≠ .expiry row) :
    Unblocked (handleRows ev s) := by
  obtain ⟨hrows, hhold, h3, h8, h11, hconfig, hinputs⟩ := h
  have hsource : ∀ x, sourceSlot (handleRows ev s) x = sourceSlot s x := fun x => by
    rw [sourceSlot, (handleRows_lkt ev s).2.1, sourceSlot]
  refine ⟨?_, ?_, ?_, ?_, ?_, ?_, ?_⟩
  · rw [conf_handleRows]
    exact hrows
  · rw [conf_handleRows]
    exact hhold
  · exact handleRows_out_of_effect hev (restrained_row3 hhold) h3
  · exact handleRows_out_of_effect hev (restrained_row8 hconfig) h8
  · exact handleRows_out_of_effect hev (restrained_row11 hinputs) h11
  · rw [hsource]
    exact hconfig
  · rw [hsource]
    exact hinputs

theorem sourceCode_injective {x y : Source} (h : sourceCode x = sourceCode y) : x = y := by
  revert h
  cases x <;> cases y <;> decide

theorem sourceSlot_takeValue_ne {x y : Source} (h : x ≠ y) (v : Option Int) (s : State) :
    sourceSlot (takeValue x v s) y = sourceSlot s y := by
  unfold takeValue sourceSlot
  dsimp only
  rw [replaceAt_getD, if_neg fun hn => h (sourceCode_injective hn.1)]

theorem Unblocked.taken (h : Unblocked s) {x : Source} (hc : x ≠ .configInvalid)
    (hi : x ≠ .inputs) (v : Option Int) : Unblocked (takeValue x v s) := by
  obtain ⟨hrows, hhold, h3, h8, h11, hconfig, hinputs⟩ := h
  refine ⟨hrows, hhold, h3, h8, h11, ?_, ?_⟩
  · rw [sourceSlot_takeValue_ne hc]
    exact hconfig
  · rw [sourceSlot_takeValue_ne hi]
    exact hinputs

/-- The set holds neither PTO nor FILL. -/
def FreeOfBlocks (b : BlockSet) : Bool := !holdsBlock b .pto && !holdsBlock b .fill

/-- Of the fixed rows only 3, 8 and 11 list PTO or FILL. -/
theorem freeOfBlocks_fixed (f : FixedRowItems) {i : Nat} (hi : i < 12) (h3 : i ≠ 3) (h8 : i ≠ 8)
    (h11 : i ≠ 11) : FreeOfBlocks (fixedRecord f i).blocks = true := by
  revert h3 h8 h11
  interval_cases i <;> simp only [fixedRecord] <;> decide

theorem freeOfBlocks_row (h : Unblocked s) {i : Nat} (hi : inEffect (rowSlot s i).state = true) :
    FreeOfBlocks (rowRecord (conf s) i).blocks = true := by
  obtain ⟨hrows, -, h3, h8, h11, -⟩ := h
  have hne : ∀ n, inEffect (rowSlot s n).state = false → i ≠ n := fun n hn he => by
    rw [he, hn] at hi
    cases hi
  unfold rowRecord
  split
  · next hlt => exact freeOfBlocks_fixed _ hlt (hne 3 h3) (hne 8 h8) (hne 11 h11)
  · rw [List.getD_eq_getElem?_getD]
    cases hr : (conf s).rows[i - 12]? with
    | none => rfl
    | some r =>
      obtain ⟨hpto, hfill⟩ := hrows r (List.mem_of_getElem? hr)
      simp [FreeOfBlocks, hpto, hfill]

theorem freeOfBlocks_handled (h : Unblocked t)
    (hb : ∀ n, t.lkt.blocks.getLsbD n = true ↔
      ∃ i < 24, ((rowSlot t i).state = .active ∨ (rowSlot t i).state = .latched) ∧
        (rowRecord (conf t) i).blocks.getLsbD n = true) :
    FreeOfBlocks t.lkt.blocks = true := by
  have hno : ∀ k, (k = .pto ∨ k = .fill) → holdsBlock t.lkt.blocks k = false := fun k hk => by
    by_contra hn
    rw [Bool.not_eq_false, holdsBlock, hb] at hn
    obtain ⟨i, -, hstate, hbit⟩ := hn
    have hin : inEffect (rowSlot t i).state = true := by
      rcases hstate with he | he <;> rw [he] <;> rfl
    have hfree := freeOfBlocks_row h hin
    rw [FreeOfBlocks, Bool.and_eq_true, Bool.not_eq_true', Bool.not_eq_true'] at hfree
    rcases hk with rfl | rfl
    · exact Bool.noConfusion (hfree.1.symm.trans hbit)
    · exact Bool.noConfusion (hfree.2.symm.trans hbit)
  simp [FreeOfBlocks, hno .pto (.inl rfl), hno .fill (.inr rfl)]

end Unblocked

end Sys2Proof.Machine
end

section
/-! Steps that settle: what the hand-overs that a change of the mode, of the block set or of a fill
brings about leave of SEQ's record. -/

namespace Sys2Proof.Machine

/-! ### The hand-overs of a step that settles -/

section Ensuing

/-- Which hand-overs are under way: whether the mode is among them, whether no row can bring PTO or
FILL about, and whether the end of a release is among them (R20). -/
structure Traffic where
  modes : Bool
  free : Bool
  release : Bool

/-- What ensues from a change of the mode, of the block set or of a fill: notices, block sets
(without PTO and FILL where `k.free` holds), the mode and the end of a release as `k` says, and
arrivals of THROTTLE_DEMAND and FILL_ACTIVE. -/
def ensues (k : Traffic) : Handover → Bool
  | .notice _ _ _ => true
  | .blocksToSeq b | .blocksToGov b | .blocksToTnk b => !k.free || FreeOfBlocks b
  | .modeToLkt _ | .modeToGov _ | .modeToTnk _ => k.modes
  | .releaseToSeq => k.release
  | .arrival _ x _ => x == .throttleDemand || x == .fillActive
  | .wordToSeq _ | .speedToSeq | .pumpToSeq _ | .dischargeToGov _ _
  | .intakeToGov _ _ | .levelToTnk _ _ _ | .supplyToGov _ => false

/-- Behind those in `hand` only hand-overs that ensue are under way. -/
def Ensuing (k : Traffic) (hand : List Handover) (s : State) : Prop :=
  ∃ l, s.hand = hand ++ l ∧ ∀ h ∈ l, ensues k h = true

variable {k : Traffic} {hand : List Handover} {s : State}

theorem Ensuing.refl (k : Traffic) (s : State) : Ensuing k s.hand s :=
  ⟨[], (List.append_nil _).symm, fun _ h => absurd h List.not_mem_nil⟩

theorem Ensuing.append {l : List Handover} {t : State} (hs : Ensuing k hand s)
    (ht : t.hand = s.hand ++ l) (hl : ∀ h ∈ l, ensues k h = true) : Ensuing k hand t := by
  obtain ⟨l', heq, hl'⟩ := hs
  refine ⟨l' ++ l, by rw [ht, heq, List.append_assoc], fun g hg => ?_⟩
  rcases List.mem_append.mp hg with hg | hg
  · exact hl' g hg
  · exact hl g hg

/-- What was under way stays so. -/
theorem Ensuing.mem (hs : Ensuing k hand s) {g : Handover} (hg : g ∈ hand) : g ∈ s.hand := by
  obtain ⟨l, heq, -⟩ := hs
  rw [heq]
  exact List.mem_append_left _ hg

theorem Ensuing.all (hs : Ensuing k hand s) (hhand : ∀ g ∈ hand, ensues k g = true) :
    ∀ g ∈ s.hand, ensues k g = true := by
  obtain ⟨l, heq, hl⟩ := hs
  intro g hg
  rw [heq] at hg
  rcases List.mem_append.mp hg with hg | hg
  · exact hhand g hg
  · exact hl g hg

theorem ensuing_handOver {h : Handover} (hs : Ensuing k hand s)
    (hh : ensues k h = true) : Ensuing k hand (handOver h s) :=
  hs.append rfl fun g hg => by rw [List.mem_singleton.mp hg, hh]

theorem ensuing_setDemand (d : Nat) (hs : Ensuing k hand s) :
    Ensuing k hand (setDemand d s) := by
  unfold setDemand
  split
  · exact hs
  · exact ensuing_handOver hs rfl

theorem ensuing_applyCeiling (hs : Ensuing k hand s) : Ensuing k hand (applyCeiling s) :=
  ensuing_setDemand _ hs

theorem ensuing_leaveRamp (x : IntakeWatch) (hs : Ensuing k hand s) :
    Ensuing k hand (leaveRamp x s) := ensuing_applyCeiling hs

theorem ensuing_watchOff (hs : Ensuing k hand s) : Ensuing k hand (watchOff s) := by
  unfold watchOff
  split
  · exact ensuing_leaveRamp _ (ensuing_handOver hs rfl)
  · exact ensuing_leaveRamp _ hs

theorem ensuing_setWatch (hs : Ensuing k hand s) : Ensuing k hand (setWatch s) := by
  unfold setWatch
  split
  case h_1 | h_2 | h_3 | h_4 | h_5 => exact hs
  all_goals exact ensuing_watchOff hs

theorem ensuing_govTakesMode (m : Mode) (hs : Ensuing k hand s) :
    Ensuing k hand (govTakesMode m s) := by
  unfold govTakesMode
  dsimp only
  split
  · exact ensuing_applyCeiling (ensuing_setWatch (ensuing_setDemand 0 hs))
  split
  · exact ensuing_watchOff (ensuing_setDemand 0 hs)
  · exact hs

theorem ensuing_govTakesBlocks (b : BlockSet) (hs : Ensuing k hand s) :
    Ensuing k hand (govTakesBlocks b s) := by
  unfold govTakesBlocks
  dsimp only
  split
  · exact hs
  · exact ensuing_applyCeiling hs

theorem ensuing_endFill (why : FillEnding) (n : Nat) (hs : Ensuing k hand s) :
    Ensuing k hand (endFill why n s) := by
  unfold endFill
  split
  · exact hs
  · exact ensuing_handOver (ensuing_handOver hs rfl) rfl

theorem ensuing_suspendStall (hs : Ensuing k hand s) : Ensuing k hand (suspendStall s) := by
  unfold suspendStall
  split
  · exact hs
  split
  all_goals exact hs

theorem ensuing_tnkTakesMode (m : Mode) (hs : Ensuing k hand s) :
    Ensuing k hand (tnkTakesMode m s) := by
  unfold tnkTakesMode
  dsimp only
  split
  · exact ensuing_suspendStall hs
  · exact ensuing_endFill _ _ hs

theorem ensuing_tnkTakesBlocks (b : BlockSet) (hs : Ensuing k hand s) :
    Ensuing k hand (tnkTakesBlocks b s) := by
  unfold tnkTakesBlocks
  dsimp only
  split
  · exact ensuing_endFill _ _ hs
  · exact hs

/-- What a handling by LKT hands on: notices, and a block set that holds neither PTO nor FILL where
no row can bring them about. -/
theorem ensuing_handled {t : State} (hs : Ensuing k hand s) (ht : Handled s t)
    (hfree : k.free = true → Unblocked t) : Ensuing k hand t := by
  obtain ⟨hblocks, -, -, -, heq⟩ := ht
  have hb : (!k.free || FreeOfBlocks t.lkt.blocks) = true := by
    cases hk : k.free with
    | false => rfl
    | true => exact freeOfBlocks_handled (hfree hk) hblocks
  refine hs.append (l := rowNotices s t ++ _) ((congrArg State.hand heq).trans
    (List.append_assoc _ _ _)) fun g hg => ?_
  rcases List.mem_append.mp hg with hg | hg
  · obtain ⟨i, -, hi⟩ := List.mem_flatMap.mp hg
    split at hi
    · cases hi
    · rw [List.mem_singleton.mp hi]
      rfl
  · split at hg
    · cases hg
    · simp only [List.mem_cons, List.not_mem_nil, or_false] at hg
      rcases hg with rfl | rfl | rfl <;> exact hb

end Ensuing

/-! ### SEQ's record while a step settles -/

/-- The mode is one that a PTO block moves (R24). -/
def movable : Mode → Bool
  | .shiftingIn | .pump | .roll => true
  | .init | .road | .parked | .disengaging | .stuck => false

/-- SEQ's record is `u` but for the block set it has been handed, PUMP_READY being as that gives it;
what is under way ensues, and no row can bring PTO or FILL about where `k.free` holds. -/
structure Settling (k : Traffic) (u : SeqUnit) (s : State) : Prop where
  ensuing : ∀ h ∈ s.hand, ensues k h = true
  seq : s.seq = { u with blocks := s.seq.blocks, pumpReady := pumpReadyFor u.mode s.seq.blocks }
  unblocked : k.free = true → Unblocked s

section Settling

variable {k : Traffic} {u : SeqUnit} {s t : State}

theorem Settling.mode (h : Settling k u s) : s.seq.mode = u.mode :=
  (congrArg SeqUnit.mode h.seq).trans rfl

/-- SEQ takes a block set that does not move it. -/
theorem seqTakesBlocks_stays {b : BlockSet}
    (hb : holdsBlock b .pto = false ∨ movable s.seq.mode = false) :
    Machine.seqTakesBlocks b s = { s with seq := { s.seq with
      blocks := b, pumpReady := pumpReadyFor s.seq.mode b } } := by
  rw [Machine.seqTakesBlocks, actOnPtoBlock_eq]
  dsimp only
  rcases hb with hb | hm
  · rw [if_pos hb]
  · split
    · rfl
    · cases hmode : s.seq.mode with
      | shiftingIn | pump | roll =>
        rw [hmode] at hm
        cases hm
      | _ => rfl

theorem Settling.stays (h : Settling k u s) {b : BlockSet}
    (hx : ensues k (.blocksToSeq b) = true) (hu : k.free = true ∨ movable u.mode = false) :
    holdsBlock b .pto = false ∨ movable s.seq.mode = false := by
  rcases hu with hfree | hm
  · left
    simp only [ensues, hfree, Bool.not_true, Bool.false_or, FreeOfBlocks, Bool.and_eq_true,
      Bool.not_eq_true'] at hx
    exact hx.1
  · rw [h.mode]
    exact .inr hm

/-- No row can bring PTO or FILL about through an arrival that ensues. -/
theorem unblocked_taken (h : Unblocked s) {sender : UnitName} {x : Source} {v : Option Int}
    (hx : ensues k (.arrival sender x v) = true) : Unblocked (takeValue x v s) := by
  simp only [ensues, Bool.or_eq_true, beq_iff_eq] at hx
  refine h.taken ?_ ?_ v <;> rcases hx with rfl | rfl <;> decide

theorem unblocked_withMode (h : Unblocked s) (m : Mode) :
    Unblocked { s with lkt := { s.lkt with mode := m } } := by
  unfold Unblocked rowSlot sourceSlot conf at h ⊢
  exact h

theorem deliver_arrival (sender : UnitName) (x : Source) (v : Option Int) (s : State) :
    Machine.deliver (.arrival sender x v) s = handleRows (.arrival x) (takeValue x v s) := rfl

theorem deliver_modeToLkt (m : Mode) (s : State) :
    Machine.deliver (.modeToLkt m) s =
      handleRows .modeChange { s with lkt := { s.lkt with mode := m } } := rfl

/-- Through a hand-over that ensues no row can bring PTO or FILL about. -/
theorem unblocked_deliver (h : Unblocked s) {x : Handover} (hx : ensues k x = true) :
    Unblocked (Machine.deliver x s) := by
  have hcfg : .cfg ∉ [(path x).2] := by cases x <;> simp [path]
  have hsame : .lkt ∉ [(path x).2] → Unblocked (Machine.deliver x s) := fun hlkt =>
    h.of_eq ((sameBut_deliver x s).lkt hlkt) ((sameBut_deliver x s).cfg hcfg)
  cases x with
  | arrival sender x v =>
    rw [deliver_arrival]
    exact (unblocked_taken h hx).handled fun _ => by simp
  | modeToLkt m =>
    rw [deliver_modeToLkt]
    exact (unblocked_withMode h m).handled fun _ => by simp
  | _ => exact hsame (by simp [path])

/-- A hand-over that ensues hands on what ensues. -/
theorem ensuing_deliver {x : Handover} (hx : ensues k x = true) (hrelease : x ≠ .releaseToSeq)
    (hfree : k.free = true → Unblocked s)
    (hstays : ∀ b, x = .blocksToSeq b → holdsBlock b .pto = false ∨ movable s.seq.mode = false) :
    Ensuing k s.hand (Machine.deliver x s) := by
  have hs := Ensuing.refl k s
  cases x with
  | notice sender n dest =>
    exact hs.append (l := []) (by simp [Machine.deliver]) fun _ h => absurd h List.not_mem_nil
  | blocksToSeq b =>
    rw [Machine.deliver, seqTakesBlocks_stays (hstays b rfl)]
    exact hs
  | blocksToGov b => exact ensuing_govTakesBlocks b hs
  | blocksToTnk b => exact ensuing_tnkTakesBlocks b hs
  | arrival sender x v =>
    have hs' : Ensuing k s.hand (takeValue x v s) := hs
    rw [deliver_arrival]
    exact ensuing_handled hs' (handleRows_handled (.arrival x) (takeValue x v s)) fun hf =>
      (unblocked_taken (hfree hf) hx).handled fun _ => by simp
  | modeToLkt m =>
    have hs' : Ensuing k s.hand { s with lkt := { s.lkt with mode := m } } := hs
    rw [deliver_modeToLkt]
    generalize hl : { s with lkt := { s.lkt with mode := m } } = s' at hs' ⊢
    exact ensuing_handled hs' (handleRows_handled .modeChange s') fun hf =>
      (hl ▸ unblocked_withMode (hfree hf) m).handled fun _ => by simp
  | modeToGov m => exact ensuing_govTakesMode m hs
  | modeToTnk m => exact ensuing_tnkTakesMode m hs
  | releaseToSeq => exact absurd rfl hrelease
  | wordToSeq _ => cases hx
  | speedToSeq => cases hx
  | pumpToSeq _ => cases hx
  | dischargeToGov _ _ => cases hx
  | intakeToGov _ _ => cases hx
  | levelToTnk _ _ _ => cases hx
  | supplyToGov _ => cases hx

/-- A hand-over that ensues, taken by a SEQ that it does not move, hands on what ensues. -/
theorem Settling.ensuing_deliver (h : Settling k u s) {x : Handover}
    (hx : ensues k x = true) (hrelease : x ≠ .releaseToSeq)
    (hu : k.free = true ∨ movable u.mode = false) : Ensuing k s.hand (Machine.deliver x s) :=
  Machine.ensuing_deliver hx hrelease h.unblocked fun _ he => h.stays (he ▸ hx) hu

/-- A hand-over that ensues leaves SEQ's record but for the block set. -/
theorem Settling.deliver (h : Settling k u s) {x : Handover}
    (hx : ensues k x = true) (hrelease : x ≠ .releaseToSeq)
    (hu : k.free = true ∨ movable u.mode = false) : Settling k u (deliver x s) := by
  refine ⟨(h.ensuing_deliver hx hrelease hu).all h.ensuing, ?_,
    fun hf => unblocked_deliver (h.unblocked hf) hx⟩
  have hsame : .seq ∉ [(path x).2] → (Machine.deliver x s).seq = s.seq :=
    (sameBut_deliver x s).seq
  cases x with
  | blocksToSeq b =>
    rw [Machine.deliver, seqTakesBlocks_stays (h.stays hx hu)]
    dsimp only
    rw [h.mode, h.seq]
  | releaseToSeq => exact absurd rfl hrelease
  | wordToSeq _ => cases hx
  | speedToSeq => cases hx
  | pumpToSeq _ => cases hx
  | _ =>
    rw [hsame (by simp [path])]
    exact h.seq

theorem Settling.withHand (h : Settling k u s) {rest : List Handover}
    (hrest : ∀ g ∈ rest, g ∈ s.hand) : Settling k u { s with hand := rest } where
  ensuing g hg := h.ensuing g (hrest g hg)
  seq := h.seq
  unblocked hf := (h.unblocked hf).of_eq rfl rfl

/-- A step that settles leaves SEQ's record but for the block set it is handed. -/
theorem Settling.takeHandovers (h : Settling k u s)
    (hrelease : k.release = false) (hu : k.free = true ∨ movable u.mode = false) (w : When) :
    Settling k u (takeHandovers w s) :=
  takeHandovers_induct (Settling k u)
    (fun _ _ _ h hx hrest => (h.withHand hrest).deliver (h.ensuing _ hx)
      (fun he => by
        have hens := h.ensuing _ hx
        rw [he] at hens
        cases hrelease.symm.trans hens) hu) w s h

end Settling

end Sys2Proof.Machine
end

section
/-! SEQ: the start-up wait, ENGAGE, ROLL and STOP_ROLL, DISENGAGE, and the sequencer's timers. -/

namespace Sys2Proof.Machine

/-! ### Outcomes that settle -/

section Outcomes

variable {k : Traffic} {s t : State} {w : When} {c : Instr} {u : SeqUnit}

theorem Settling.of_ready (hhand : s.hand.all (ensues k) = true)
    (hready : s.seq.pumpReady = pumpReadyFor s.seq.mode s.seq.blocks)
    (hfree : k.free = true → Unblocked s) : Settling k s.seq s where
  ensuing := List.all_eq_true.mp hhand
  seq := by rw [← hready]
  unblocked := hfree

/-- A step whose effect settles: its end has SEQ's record but for the block set it is handed. -/
theorem settled_gives {x : State} (hx : exec c s = .next (takeHandovers w x))
    (h : Settling k x.seq x) (hrelease : k.release = false)
    (hu : k.free = true ∨ movable x.seq.mode = false) :
    ∃ t, exec c s = .next t ∧ still t = still x ∧
      t.seq = { x.seq with
        blocks := t.seq.blocks, pumpReady := pumpReadyFor x.seq.mode t.seq.blocks } :=
  ⟨_, hx, still_takeHandovers w x, (h.takeHandovers hrelease hu w).seq⟩

theorem all_outcomeNotices (s : State) (r : Option OpenRequest) (e : Ending) (n : Nat) :
    (outcomeNotices s r e n).all (ensues k) = true := by
  cases r <;> rfl

theorem all_modeHandovers (m : Mode) :
    (modeHandovers m).all (ensues k) = k.modes := by
  cases hm : k.modes <;> simp [modeHandovers, ensues, hm]

theorem ensues_modeNotice (s : State) (why : Reason) (m m0 : Mode) (x x0 : Option SubStage) :
    ensues k (modeNotice s why m x m0 x0) = true := rfl

theorem all_releaseOutcome {why : Reason} {r : Option OpenRequest} {before after : List Handover}
    (hk : k.modes = true) (hs : s.hand.all (ensues k) = true) (hb : before.all (ensues k) = true)
    (ha : after.all (ensues k) = true) :
    (releaseOutcome s why r before after).hand.all (ensues k) = true := by
  have hm : (if s.seq.mode = .disengaging then [] else modeHandovers .disengaging).all
      (ensues k) = true := by
    split
    · rfl
    · rw [all_modeHandovers, hk]
  unfold releaseOutcome
  dsimp only
  split <;>
    simp only [List.all_append, List.all_cons, hs, hb, ha, hm, hk, ensues_modeNotice,
      all_modeHandovers, all_outcomeNotices, Bool.and_self]

theorem ready_releaseOutcome (s : State) (why : Reason) (r : Option OpenRequest)
    (before after : List Handover) :
    let x := (releaseOutcome s why r before after).seq
    x.pumpReady = pumpReadyFor x.mode x.blocks ∧ movable x.mode = false := by
  unfold releaseOutcome
  dsimp only
  split
  · exact ⟨rfl, rfl⟩
  · rcases derivedMode_cases s with hd | hd <;> simp [restingSeq, hd, pumpReadyFor, movable]

theorem settling_releaseOutcome {why : Reason} {r : Option OpenRequest}
    {before after : List Handover} (hs : s.hand.all (ensues ⟨true, false, false⟩) = true)
    (hb : before.all (ensues ⟨true, false, false⟩) = true)
    (ha : after.all (ensues ⟨true, false, false⟩) = true) {links : PerPort Link} :
    let x : State := { releaseOutcome s why r before after with links := links }
    Settling ⟨true, false, false⟩ x.seq x ∧ movable x.seq.mode = false := by
  have hready := ready_releaseOutcome s why r before after
  exact ⟨.of_ready (all_releaseOutcome rfl hs hb ha) hready.1 (fun hf => Bool.noConfusion hf),
    hready.2⟩

end Outcomes

/-! ### Requests of a mode -/

section Requests

variable {c : Instr} {w : When} {p : Port} {own : Nat} {needsRoll : Bool}
  {decide_ : State → State × Result} {s : State} {k : Word}

/-- A REQUEST_MODE that SEQ decides. -/
theorem exec_mode (hc : effectOf c = whenRunning (serveMode p own needsRoll decide_))
    (hw : whenOf c = w) (hp : s.phase = .running) (hs : s.hand = [])
    (ha : askedOf s p .requestMode = some [k]) (hk : k.toNat = own) (hr : portRank s p ≠ 0)
    (hroll : needsRoll = true → portHolds s p .roll = true) {u : State} {r : Result}
    (hd : decide_ (advance w.dt s) = (u, r)) (hl : u.links = s.links) :
    exec c s = .next (takeHandovers w
      { u with links := answered s p ⟨.requestMode, r, []⟩ }) := by
  rw [exec_running hc hw hp hs, serveMode_admitted decide_ (k := k) (by rw [askedOf_advance, ha]) hk
    (by rw [portRank, conf_advance]; exact hr) (by rw [portHolds_advance]; exact hroll), hd]
  simp only [answered, hl]

/-- The same where SEQ changes nothing. -/
theorem exec_mode_answered (hc : effectOf c = whenRunning (serveMode p own needsRoll decide_))
    (hw : whenOf c = w) (hp : s.phase = .running) (hs : s.hand = [])
    (ha : askedOf s p .requestMode = some [k]) (hk : k.toNat = own) (hr : portRank s p ≠ 0)
    (hroll : needsRoll = true → portHolds s p .roll = true) {r : Result}
    (hd : decide_ (advance w.dt s) = (advance w.dt s, r)) :
    exec c s = .next { advance w.dt s with links := answered s p ⟨.requestMode, r, []⟩ } := by
  rw [exec_mode hc hw hp hs ha hk hr hroll hd (advance_links _ _),
    takeHandovers_of_hand_nil w (by rw [advance_hand, hs])]

/-- The same at the same moment as hand-overs under way. -/
theorem exec_mode_at_once (hc : effectOf c = whenRunning (serveMode p own needsRoll decide_))
    (hw : whenOf c = w) (hp : s.phase = .running) (hdt : w.dt = 0)
    (ha : askedOf s p .requestMode = some [k]) (hk : k.toNat = own) (hr : portRank s p ≠ 0)
    (hroll : needsRoll = true → portHolds s p .roll = true) {r : Result}
    (hd : decide_ (advance 0 s) = (advance 0 s, r)) :
    exec c s = .next (takeHandovers w
      { advance 0 s with links := answered s p ⟨.requestMode, r, []⟩ }) := by
  have hrun : (advance 0 s).phase = .running := (advance_phase _ _).trans hp
  rw [exec_next_eq, hc, hw, hdt, pass_zero, whenRunning_running _ hrun,
    serveMode_admitted decide_ (k := k) (by rw [askedOf_advance, ha]) hk
    (by rw [portRank, conf_advance]; exact hr) (by rw [portHolds_advance]; exact hroll), hd]
  simp only [answered, advance_links]

/-- R28: the refusals of a REQUEST_MODE before SEQ sees it. -/
def RefusedMode (s : State) (p : Port) (own : Nat) (needsRoll : Bool) (k : Word) (r : Result) :
    Prop :=
  ((k.toNat = own ∨ 3 < k.toNat) ∧ portRank s p = 0 ∧ r = .noRight) ∨
  (3 < k.toNat ∧ portRank s p ≠ 0 ∧ r = .badArgument) ∨
  (k.toNat = own ∧ portRank s p ≠ 0 ∧ needsRoll = true ∧ portHolds s p .roll = false ∧
    r = .noRight)

theorem serveMode_refused {r : Result} (hown : own ≤ 3)
    (ha : askedOf s p .requestMode = some [k]) (h : RefusedMode s p own needsRoll k r) :
    serveMode p own needsRoll decide_ s =
      { s with links := answered s p ⟨.requestMode, r, []⟩ } := by
  have hnames : namesKind own s p = true := by
    rw [namesKind, ha]
    simp only [argAt, disengageKind, List.getD_cons_zero, Bool.or_eq_true, beq_iff_eq,
      decide_eq_true_eq]
    rcases h with ⟨h, -⟩ | ⟨h, -⟩ | ⟨h, -⟩
    · exact h
    · exact .inr h
    · exact .inl h
  have hadmit : admitMode p own needsRoll decide_ [k] s = (s, r, []) := by
    unfold admitMode refuse
    simp only [argAt, List.getD_cons_zero]
    rcases h with ⟨-, hr, rfl⟩ | ⟨hk, hr, rfl⟩ | ⟨hk, hr, hroll, hno, rfl⟩
    · rw [if_pos hr]
    · rw [if_neg hr, if_pos (by omega)]
    · rw [if_neg hr, if_neg (by omega), if_pos (by simp [hroll, hno])]
  rw [serveMode, if_pos hnames, serve_asked _ ha, hadmit, fixAnswer_eq]

theorem serveMode_other (ha : askedOf s p .requestMode = some [k]) (hk : k.toNat ≠ own)
    (hle : k.toNat ≤ 3) : serveMode p own needsRoll decide_ s = s := by
  refine if_neg ?_
  rw [namesKind, ha]
  simp only [argAt, disengageKind, List.getD_cons_zero, Bool.or_eq_true, beq_iff_eq,
    decide_eq_true_eq]
  omega

theorem exec_mode_refused (hc : effectOf c = whenRunning (serveMode p own needsRoll decide_))
    (hw : whenOf c = w) (hp : s.phase = .running) (hs : s.hand = []) (hown : own ≤ 3)
    (ha : askedOf s p .requestMode = some [k]) {r : Result}
    (h : RefusedMode s p own needsRoll k r) :
    exec c s = .next { advance w.dt s with links := answered s p ⟨.requestMode, r, []⟩ } := by
  have h' : RefusedMode (advance w.dt s) p own needsRoll k r := by
    rw [RefusedMode, portRank, conf_advance, portHolds_advance]
    exact h
  rw [exec_running hc hw hp hs, serveMode_refused hown (by rw [askedOf_advance, ha]) h',
    answered_advance, takeHandovers_of_hand_nil w (by rw [advance_hand, hs])]

theorem exec_mode_other (hc : effectOf c = whenRunning (serveMode p own needsRoll decide_))
    (hw : whenOf c = w) (hp : s.phase = .running) (hs : s.hand = [])
    (ha : askedOf s p .requestMode = some [k]) (hk : k.toNat ≠ own) (hle : k.toNat ≤ 3) :
    exec c s = .next (advance w.dt s) := by
  rw [exec_running hc hw hp hs, serveMode_other (by rw [askedOf_advance, ha]) hk hle,
    takeHandovers_of_hand_nil w (by rw [advance_hand, hs])]

end Requests

/-! ### The start-up wait -/

theorem startedOutcome_of_feedback {s : State} (hf : feedback s = true) :
    startedOutcome s = { s with
      seq := { restingSeq s with mode := .stuck, reason := .start, request := s.seq.request }
      ntq :=
        ⟨{ s.ntq.chassis with causes := { s.ntq.chassis.causes with ptoFoundEngaged := true } },
          { s.ntq.cab with causes := { s.ntq.cab.causes with ptoFoundEngaged := true } },
          { s.ntq.panel with causes := { s.ntq.panel.causes with ptoFoundEngaged := true } }⟩
      hand := s.hand ++ modeNotice s .start .stuck none s.seq.mode s.seq.sub ::
        modeHandovers .stuck } := by
  unfold startedOutcome
  dsimp only
  rw [if_pos hf]

theorem startedOutcome_of_clear {s : State} (hf : feedback s = false) :
    startedOutcome s = { s with
      seq := { restingSeq s with
        mode := derivedMode s, reason := .start, request := s.seq.request }
      hand := s.hand ++ modeNotice s .start (derivedMode s) none s.seq.mode s.seq.sub ::
        modeHandovers (derivedMode s) } := by
  unfold startedOutcome
  dsimp only
  rw [hf, if_neg Bool.false_ne_true]

theorem settling_startedOutcome {s : State} (hs : s.hand = []) :
    Settling ⟨true, false, false⟩ (startedOutcome s).seq (startedOutcome s) ∧
      movable (startedOutcome s).seq.mode = false := by
  cases hf : feedback s with
  | true =>
    rw [startedOutcome_of_feedback hf]
    exact ⟨.of_ready (by rw [hs]; rfl) rfl fun h => Bool.noConfusion h, rfl⟩
  | false =>
    rw [startedOutcome_of_clear hf]
    refine ⟨.of_ready (by rw [hs]; rfl) ?_ fun h => Bool.noConfusion h, ?_⟩ <;>
      rcases derivedMode_cases s with hd | hd <;> simp [restingSeq, hd, pumpReadyFor, movable]

theorem derivedMode_eq (s : State) :
    derivedMode s =
      if secured s = true ∧ s.spd.value = 0 ∧ quality s.spd = .good then .parked else .road := by
  unfold derivedMode
  simp only [Bool.and_eq_true, beq_iff_eq, and_assoc]

/-- Settles O22. -/
theorem startUpWaitEndsInStuckOrOnTheRoad : Obligations.StartUpWaitEndsInStuckOrOnTheRoad := by
  unfold Obligations.StartUpWaitEndsInStuckOrOnTheRoad
  intro w s hp hs hm u hdue
  have hu : u.hand = [] := (advance_hand _ _).trans hs
  have hstart : exec (.startUpWaitExpiry w) s = .next (takeHandovers w (startedOutcome u)) := by
    have hm' : u.seq.mode = .init := by rw [advance_seq, hm]
    have hdue' : timerDue u.timeBase u.seq.startWait = true := by rw [advance_seq, hdue]
    rw [exec_running (c := .startUpWaitExpiry w) (w := w) rfl rfl hp hs, if_pos ⟨hm', hdue'⟩,
      leaveInit_eq _ hm']
  obtain ⟨hsettling, hmode⟩ := settling_startedOutcome hu
  obtain ⟨t, heq, hstill, hseq⟩ := settled_gives hstart hsettling rfl (.inr hmode)
  refine ⟨hstart, t, heq, ?_⟩
  have hfeedback : feedback u = feedback s := by rw [feedback, advance_lio, feedback]
  cases hf : feedback s with
  | true =>
    rw [startedOutcome_of_feedback (hfeedback.trans hf)] at hseq hstill
    rw [hseq]
    refine ⟨rfl, rfl, rfl, rfl, fun _ => ⟨rfl, ?_⟩, fun h => Bool.noConfusion h⟩
    rw [hstill]
    simp [still, u]
  | false =>
    rw [startedOutcome_of_clear (hfeedback.trans hf)] at hseq hstill
    rw [hseq]
    refine ⟨rfl, rfl, rfl, rfl, fun h => Bool.noConfusion h, fun _ => ⟨hstill, ?_⟩⟩
    show derivedMode u = _
    rw [derivedMode_eq, advance_spd, secured, advance_lio, secured]

end Sys2Proof.Machine
end

section
/-! ENGAGE: where it starts a shift-in, and elsewhere. -/

namespace Sys2Proof.Machine

/-! ### ENGAGE -/

section Engage

variable {s : State} {p : Port}

/-- R31: what an ENGAGE is answered that changes nothing. -/
def EngageAnswer (s : State) (p : Port) (r : Result) : Prop :=
  (s.cfg.storeBusy = true ∧ r = .busy) ∨
  (s.cfg.storeBusy = false ∧
    ((s.seq.mode = .init ∧ r = .condition) ∨ (s.seq.mode = .stuck ∧ r = .condition) ∨
     (s.seq.mode = .road ∧ holdsBlock s.seq.blocks .pto = true ∧ r = .blocked) ∨
     (s.seq.mode = .road ∧ holdsBlock s.seq.blocks .pto = false ∧ r = .condition) ∨
     (s.seq.mode = .parked ∧ holdsBlock s.seq.blocks .pto = true ∧ r = .blocked) ∨
     (s.seq.mode = .pump ∧ r = .ok) ∨ (s.seq.mode = .roll ∧ r = .ok) ∨
     (s.seq.mode = .disengaging ∧ r = .busy) ∨
     (s.seq.mode = .shiftingIn ∧ r = .busy ∧ ∃ q, s.seq.request = some q ∧
       portRank s p ≤ portRank s q.requester)))

theorem decideEngage_answered {r : Result} (h : EngageAnswer s p r) :
    decideEngage p s = (s, r) := by
  unfold decideEngage
  rcases h with ⟨hbusy, rfl⟩ | ⟨hfree, h⟩
  · rw [if_pos hbusy]
  rw [hfree, if_neg Bool.false_ne_true]
  rcases h with ⟨hm, rfl⟩ | ⟨hm, rfl⟩ | ⟨hm, hb, rfl⟩ | ⟨hm, hb, rfl⟩ | ⟨hm, hb, rfl⟩ | ⟨hm, rfl⟩ |
    ⟨hm, rfl⟩ | ⟨hm, rfl⟩ | ⟨hm, rfl, q, hq, hle⟩ <;> rw [hm] <;> dsimp only
  · rw [if_pos hb]
  · rw [hb, if_neg Bool.false_ne_true]
  · rw [if_pos hb]
  · rw [engageInShift, hq]
    exact if_neg (Nat.not_lt.mpr hle)

/-- R32: an ENGAGE of a higher rank takes an open one over. -/
theorem decideEngage_taken_over {q : OpenRequest} (hfree : s.cfg.storeBusy = false)
    (hm : s.seq.mode = .shiftingIn) (hq : s.seq.request = some q)
    (hrank : portRank s q.requester < portRank s p) :
    decideEngage p s = ({ s with
      seq := { s.seq with request := some ⟨p, .engage, s.timeBase⟩ }
      hand := s.hand ++ outcomeNotices s (some q) .superseded (portCode p) }, .taken) := by
  unfold decideEngage engageInShift
  rw [hfree, if_neg Bool.false_ne_true, hm]
  dsimp only
  rw [hq]
  dsimp only
  rw [if_pos hrank, postOutcome_eq _ (by cases p <;> decide), hq]
  rfl

/-- R31: an ENGAGE in PARKED with no PTO block starts a shift-in. -/
theorem decideEngage_started (hfree : s.cfg.storeBusy = false) (hm : s.seq.mode = .parked)
    (hb : holdsBlock s.seq.blocks .pto = false) :
    decideEngage p s =
      (if feedback s then engagedOutcome p s else shiftingOutcome p s, .taken) := by
  rw [← startShift_eq p s hb hm]
  unfold decideEngage
  rw [hfree, if_neg Bool.false_ne_true, hm]
  dsimp only
  rw [hb, if_neg Bool.false_ne_true]

end Engage

theorem toNat_ne_zero {k : Word} (h : k ≠ 0) : k.toNat ≠ 0 := fun hz =>
  h (BitVec.eq_of_toNat_eq hz)

/-- Settles O40. -/
theorem engageElsewhereIsAnsweredByTheMode : Obligations.EngageElsewhereIsAnsweredByTheMode := by
  unfold Obligations.EngageElsewhereIsAnsweredByTheMode
  refine ⟨?_, ?_⟩
  · intro w p s hp hs ha hr u
    refine ⟨fun r h => ?_, ?_⟩
    · have h' : EngageAnswer u p r := by
        unfold EngageAnswer
        simp only [u, advance_cfg, advance_seq, portRank_advance]
        exact h
      exact exec_mode_answered (c := .engage w p) (w := w) rfl rfl hp hs ha rfl hr
        (fun h => Bool.noConfusion h) (decideEngage_answered h')
    · intro q hfree hm hq hkind hrank outcome x
      have hd := decideEngage_taken_over (s := u) (p := p) (q := q)
        (by rw [advance_cfg]; exact hfree) (by rw [advance_seq]; exact hm)
        (by rw [advance_seq]; exact hq) (by rw [portRank_advance, portRank_advance]; exact hrank)
      have hnotice : outcomeNotices u (some q) .superseded (portCode p) =
          [.notice .seq outcome (.only q.requester)] := by
        simp only [outcomeNotices, notice, hkind]
        rfl
      have hexec : exec (.engage w p) s = .next (takeHandovers w
          { x with hand := [.notice .seq outcome (.only q.requester)] }) := by
        rw [exec_mode (c := .engage w p) (w := w) rfl rfl hp hs ha rfl hr
          (fun h => Bool.noConfusion h) hd (advance_links _ _), hnotice, advance_seq, advance_hand,
          hs, List.nil_append]
      refine ⟨hexec, fun htakes => ?_⟩
      rw [hexec, takeHandovers_notice htakes rfl, placeNotice_only]
      have hntq : u.ntq = s.ntq := advance_ntq _ _
      have hhand : u.hand = [] := (advance_hand _ _).trans hs
      simp only [x, hntq, hhand]
  · intro w p s kind hp hs ha u
    refine ⟨fun r h => ?_, fun hne hle => ?_⟩
    · refine exec_mode_refused (c := .engage w p) (w := w) rfl rfl hp hs (by decide) ha ?_
      rcases h with ⟨hk, hr, rfl⟩ | ⟨hk, hr, rfl⟩
      · exact .inl ⟨hk.imp_left (congrArg BitVec.toNat), hr, rfl⟩
      · exact .inr (.inl ⟨hk, hr, rfl⟩)
    · exact exec_mode_other (c := .engage w p) (w := w) rfl rfl hp hs ha (toNat_ne_zero hne) hle

/-- Settles O39. -/
theorem engageInParkedStartsTheShift : Obligations.EngageInParkedStartsTheShift := by
  unfold Obligations.EngageInParkedStartsTheShift
  intro w p s hp hs ha hr hfree hm hb u links
  have hhand : u.hand = [] := (advance_hand _ _).trans hs
  have hexec : exec (.engage w p) s = .next (takeHandovers w
      { if feedback s then engagedOutcome p u else shiftingOutcome p u with links := links }) := by
    have hd := decideEngage_started (s := u) (p := p) (by rw [advance_cfg]; exact hfree)
      (by rw [advance_seq]; exact hm) (by rw [advance_seq]; exact hb)
    rw [feedback_advance] at hd
    refine exec_mode (c := .engage w p) (w := w) rfl rfl hp hs ha rfl hr
      (fun h => Bool.noConfusion h) hd ?_
    split <;> exact advance_links _ _
  cases hf : feedback s with
  | false =>
    rw [hf, if_neg Bool.false_ne_true] at hexec
    refine ⟨fun _ => hexec, fun h => Bool.noConfusion h, fun hfreed => ?_⟩
    obtain ⟨t, heq, hstill, hseq⟩ := settled_gives (k := ⟨true, true, false⟩) hexec
      (.of_ready (by dsimp only [shiftingOutcome]; rw [hhand]; rfl) rfl
        fun _ => hfreed.of_eq (advance_lkt _ _) (advance_cfg _ _)) rfl (.inl rfl)
    refine ⟨t, heq, hstill, ?_⟩
    rw [hseq]
    refine ⟨rfl, rfl, fun _ => ⟨rfl, rfl, rfl, ?_, rfl⟩, fun h => Bool.noConfusion h⟩
    show some (Timer.mk u.timeBase (conf u).timing.shift) = _
    rw [conf_advance]
  | true =>
    rw [hf, if_pos rfl] at hexec
    refine ⟨fun h => Bool.noConfusion h, fun _ => hexec, fun hfreed => ?_⟩
    obtain ⟨t, heq, hstill, hseq⟩ := settled_gives (k := ⟨true, true, false⟩) hexec
      (.of_ready (by dsimp only [engagedOutcome, shiftingOutcome]; rw [hhand]; rfl) rfl
        fun _ => hfreed.of_eq (advance_lkt _ _) (advance_cfg _ _)) rfl (.inl rfl)
    refine ⟨t, heq, hstill, ?_⟩
    rw [hseq]
    exact ⟨rfl, rfl, fun h => Bool.noConfusion h, fun _ => ⟨rfl, rfl, rfl, rfl⟩⟩

end Sys2Proof.Machine
end

section
/-! ROLL and STOP_ROLL. -/

namespace Sys2Proof.Machine

section Roll

variable {s : State}

/-- R35: the speed record and the configuration let the vehicle creep. -/
def FitToRoll (s : State) : Prop :=
  quality s.spd = .good ∧ (conf s).fillItems.rollEnabled = true ∧
    (s.spd.transmission = .neutral ∨ s.spd.transmission = .lowRange)

theorem fitToCreep_iff (x : Transmission) :
    fitToCreep x = true ↔ x = .neutral ∨ x = .lowRange := by
  cases x <;> simp [fitToCreep]

theorem fitToRoll_iff (s : State) :
    (quality s.spd == .good && (conf s).fillItems.rollEnabled &&
      fitToCreep s.spd.transmission) = true ↔ FitToRoll s := by
  rw [Bool.and_eq_true, Bool.and_eq_true, fitToCreep_iff, beq_iff_eq, and_assoc, FitToRoll]

/-- R24: what a PTO block makes of a transition to PUMP or ROLL. -/
theorem actOnPtoBlock_rolledOutcome {m : Mode} (hm : m = .pump ∨ m = .roll) (s : State) :
    actOnPtoBlock (rolledOutcome m s) =
      if holdsBlock s.seq.blocks .pto = false then rolledOutcome m s
      else spinDownOutcome (rolledOutcome m s) .block s.seq.request := by
  rw [actOnPtoBlock_eq]
  rcases hm with rfl | rfl <;> rfl

theorem decideRoll_taken (hm : s.seq.mode = .pump) (hb : holdsBlock s.lkt.blocks .roll = false)
    (hfit : FitToRoll s) :
    decideRoll s = (actOnPtoBlock (rolledOutcome .roll s), .ok) := by
  unfold decideRoll
  rw [if_neg (by simp [hm]), hb, if_neg Bool.false_ne_true, if_pos ((fitToRoll_iff s).mpr hfit),
    transition_pumping _ _ (.inr rfl) (by simp [hm])]

/-- R35: what a ROLL is answered that changes nothing. -/
def RollRefused (s : State) (r : Result) : Prop :=
  (s.seq.mode ≠ .pump ∧ r = .condition) ∨
  (s.seq.mode = .pump ∧ holdsBlock s.lkt.blocks .roll = true ∧ r = .blocked) ∨
  (s.seq.mode = .pump ∧ holdsBlock s.lkt.blocks .roll = false ∧ ¬FitToRoll s ∧ r = .condition)

theorem decideRoll_refused {r : Result} (h : RollRefused s r) : decideRoll s = (s, r) := by
  unfold decideRoll
  rcases h with ⟨hm, rfl⟩ | ⟨hm, hb, rfl⟩ | ⟨hm, hb, hfit, rfl⟩
  · rw [if_pos hm]
  · rw [if_neg (not_not.mpr hm), if_pos hb]
  · rw [if_neg (not_not.mpr hm), hb, if_neg Bool.false_ne_true,
      if_neg fun h => hfit ((fitToRoll_iff s).mp h)]

/-- R36: what a STOP_ROLL asks for. -/
def AtRestInRoll (s : State) : Prop :=
  s.seq.mode = .roll ∧ s.spd.value = 0 ∧ secured s = true

theorem atRestInRoll_iff (s : State) :
    (s.seq.mode == .roll && s.spd.value == 0 && secured s) = true ↔ AtRestInRoll s := by
  rw [Bool.and_eq_true, Bool.and_eq_true, beq_iff_eq, beq_iff_eq, and_assoc, AtRestInRoll]

theorem decideStopRoll_taken (h : AtRestInRoll s) :
    decideStopRoll s = (actOnPtoBlock (rolledOutcome .pump s), .ok) := by
  unfold decideStopRoll
  rw [if_pos ((atRestInRoll_iff s).mpr h), transition_pumping _ _ (.inl rfl) (by simp [h.1])]

theorem decideStopRoll_refused (h : ¬AtRestInRoll s) : decideStopRoll s = (s, .condition) :=
  if_neg fun hn => h ((atRestInRoll_iff s).mp hn)

theorem links_rolled {m : Mode} (hm : m = .pump ∨ m = .roll) (s : State) :
    (actOnPtoBlock (rolledOutcome m s)).links = s.links := by
  rw [actOnPtoBlock_rolledOutcome hm]
  split
  · rfl
  · unfold spinDownOutcome releaseOutcome
    dsimp only
    repeat' split
    all_goals rfl

/-- A ROLL or STOP_ROLL taken, by the PTO block. -/
theorem exec_rolled {c : Instr} {w : When} {m : Mode} (hm : m = .pump ∨ m = .roll)
    {links : PerPort Link} {u : State}
    (hexec : exec c s = .next (takeHandovers w
      { actOnPtoBlock (rolledOutcome m u) with links := links })) (hu : u.hand = []) :
    (holdsBlock u.seq.blocks .pto = false →
      exec c s = .next (takeHandovers w { rolledOutcome m u with links := links })) ∧
    (holdsBlock u.seq.blocks .pto = true →
      exec c s = .next (takeHandovers w
        { spinDownOutcome (rolledOutcome m u) .block u.seq.request with links := links })) ∧
    (holdsBlock u.seq.blocks .pto = false → Unblocked u →
      ∃ t, exec c s = .next t ∧ still t = { still u with links := links } ∧
        t.seq.mode = m ∧ t.seq.reason = .request ∧ t.seq.ptoShift = true ∧
        t.seq.pumpReady = pumpReadyFor m t.seq.blocks ∧ t.seq.request = u.seq.request) := by
  rw [actOnPtoBlock_rolledOutcome hm] at hexec
  refine ⟨fun hb => ?_, fun hb => ?_, fun hb hfree => ?_⟩
  · rw [if_pos hb] at hexec
    exact hexec
  · rw [if_neg (by simp [hb])] at hexec
    exact hexec
  · rw [if_pos hb] at hexec
    obtain ⟨t, heq, hstill, hseq⟩ := settled_gives (k := ⟨true, true, false⟩) hexec
      (.of_ready (by dsimp only [rolledOutcome]; rw [hu]; rfl)
        rfl fun _ => hfree.of_eq rfl rfl) rfl (.inl rfl)
    refine ⟨t, heq, hstill, ?_⟩
    rw [hseq]
    exact ⟨rfl, rfl, rfl, rfl, rfl⟩

end Roll

/-- Settles O41. -/
theorem rollAndStopRollChangeTheMode : Obligations.RollAndStopRollChangeTheMode := by
  unfold Obligations.RollAndStopRollChangeTheMode
  refine ⟨?_, ?_, ?_⟩
  · intro w p s hp hs hr hroll u fit atRest links taken
    have hu : u.hand = [] := (advance_hand _ _).trans hs
    have hseq : u.seq = s.seq := advance_seq _ _
    refine ⟨fun ha => ⟨fun hm hb hfit => ?_, fun r h => ?_⟩,
      fun ha => ⟨fun hrest => ?_, fun hrest => ?_⟩⟩
    · have hd := decideRoll_taken (s := u) (by rw [hseq]; exact hm)
        (by rw [advance_lkt]; exact hb)
        (by rw [FitToRoll, advance_spd, conf_advance]; exact hfit)
      obtain ⟨hfree, hheld, hend⟩ := exec_rolled (.inr rfl)
        (exec_mode (c := .roll w p) (w := w) rfl rfl hp hs ha rfl hr (fun _ => hroll) hd
          ((links_rolled (.inr rfl) u).trans (advance_links _ _))) hu
      rw [hseq] at hfree hheld hend
      exact ⟨⟨hfree, hheld⟩, fun hb hfreed =>
        hend hb (hfreed.of_eq (advance_lkt _ _) (advance_cfg _ _))⟩
    · have h' : RollRefused u r := by
        rw [RollRefused, FitToRoll, hseq, advance_lkt, advance_spd, conf_advance]
        exact h
      exact exec_mode_answered (c := .roll w p) (w := w) rfl rfl hp hs ha rfl hr
        (fun _ => hroll) (decideRoll_refused h')
    · have hd := decideStopRoll_taken (s := u)
        (by rw [AtRestInRoll, hseq, advance_spd, secured_advance]; exact hrest)
      obtain ⟨hfree, hheld, hend⟩ := exec_rolled (.inl rfl)
        (exec_mode (c := .stopRoll w p) (w := w) rfl rfl hp hs ha rfl hr (fun _ => hroll) hd
          ((links_rolled (.inl rfl) u).trans (advance_links _ _))) hu
      rw [hseq] at hfree hheld hend
      exact ⟨⟨hfree, hheld⟩, fun hb hfreed =>
        hend hb (hfreed.of_eq (advance_lkt _ _) (advance_cfg _ _))⟩
    · have h' : ¬AtRestInRoll u := by
        rw [AtRestInRoll, hseq, advance_spd, secured_advance]
        exact hrest
      exact exec_mode_answered (c := .stopRoll w p) (w := w) rfl rfl hp hs ha rfl hr
        (fun _ => hroll) (decideStopRoll_refused h')
  · intro w p s r hp hdt hr hroll ha hm h
    have h' : RollRefused (advance 0 s) r := by
      rw [RollRefused, FitToRoll, advance_seq, advance_lkt, advance_spd, conf_advance]
      rcases h with ⟨hb, rfl⟩ | ⟨hb, hq, rfl⟩
      · exact .inr (.inl ⟨hm, hb, rfl⟩)
      · exact .inr (.inr ⟨hm, hb, fun hfit => hq hfit.1, rfl⟩)
    exact exec_mode_at_once (c := .roll w p) (w := w) rfl rfl hp hdt ha rfl hr (fun _ => hroll)
      (decideRoll_refused h')
  · intro w p s kind r hp hs ha u answeredBy refused
    have hrefused : ∀ own : Word, refused own → RefusedMode s p own.toNat true kind r := by
      rintro own (⟨hk, hr, rfl⟩ | ⟨hk, hr, rfl⟩ | ⟨hk, hr, hno, rfl⟩)
      · exact .inl ⟨hk.imp_left (congrArg BitVec.toNat), hr, rfl⟩
      · exact .inr (.inl ⟨hk, hr, rfl⟩)
      · exact .inr (.inr ⟨congrArg BitVec.toNat hk, hr, rfl, hno, rfl⟩)
    refine ⟨fun h => ?_, fun h => ?_, fun hne hle => ?_, fun hne hle => ?_⟩
    · exact exec_mode_refused (c := .roll w p) (w := w) rfl rfl hp hs (by decide) ha
        (hrefused 1 h)
    · exact exec_mode_refused (c := .stopRoll w p) (w := w) rfl rfl hp hs (by decide) ha
        (hrefused 2 h)
    · exact exec_mode_other (c := .roll w p) (w := w) rfl rfl hp hs ha
        (fun h => hne (BitVec.eq_of_toNat_eq h)) hle
    · exact exec_mode_other (c := .stopRoll w p) (w := w) rfl rfl hp hs ha
        (fun h => hne (BitVec.eq_of_toNat_eq h)) hle

end Sys2Proof.Machine
end

section
/-! DISENGAGE, and the sequencer's timers. -/

namespace Sys2Proof.Machine

/-! ### The release as SEQ's record shows it -/

section Release

variable {s : State} {why : Reason} {r : Option OpenRequest} {before after : List Handover}

theorem releaseOutcome_seq :
    (releaseOutcome s why r before after).seq =
      if feedback s then releasingSeq s why r else restingSeq s := by
  unfold releaseOutcome
  dsimp only
  split <;> rfl

theorem pumpReadyFor_derivedMode (s : State) (b : BlockSet) :
    pumpReadyFor (derivedMode s) b = false := by
  rcases derivedMode_cases s with h | h <;> rw [h] <;> rfl

theorem releaseOutcome_links : (releaseOutcome s why r before after).links = s.links := by
  unfold releaseOutcome
  dsimp only
  split <;> rfl

theorem still_releaseOutcome : still (releaseOutcome s why r before after) = still s := by
  unfold releaseOutcome
  dsimp only
  split <;> rfl

/-- R17: the state when SEQ enters SPIN_DOWN, the pump still turning. -/
def spinning (s : State) (why : Reason) (r : Option OpenRequest) : State :=
  { s with
    seq := { s.seq with
      mode := .disengaging, sub := some .spinDown, reason := why, request := r, startWait := none
      shiftTimer := none, spinLimit := some ⟨s.timeBase, (conf s).timing.spinDown⟩
      releaseTimer := none, ptoShift := true, pumpReady := false }
    hand := s.hand ++ modeNotice s why .disengaging (some .spinDown) s.seq.mode s.seq.sub ::
      (if s.seq.mode = .disengaging then [] else modeHandovers .disengaging) }

theorem spinDownOutcome_eq (s : State) (why : Reason) (r : Option OpenRequest) :
    spinDownOutcome s why r =
      if s.lio.np ≤ (conf s).timing.disengageSpeed then
        releaseOutcome (spinning s why r) .condition r [] []
      else spinning s why r := rfl

theorem all_spinning {k : Traffic} (hk : k.modes = true) (hs : s.hand = []) :
    (spinning s why r).hand.all (ensues k) = true := by
  unfold spinning
  dsimp only
  rw [hs]
  split <;> simp only [List.nil_append, List.all_cons, List.all_nil, ensues_modeNotice,
    all_modeHandovers, hk, Bool.and_self]

theorem settling_spinning (hs : s.hand = []) {links : PerPort Link} :
    let x : State := { spinning s why r with links := links }
    Settling ⟨true, false, false⟩ x.seq x :=
  .of_ready (all_spinning (why := why) (r := r) rfl hs) rfl fun h => Bool.noConfusion h

end Release

/-! ### DISENGAGE -/

section Disengage

variable {s : State} {p : Port}

theorem decideDisengage_pumping (hm : s.seq.mode = .pump ∨ s.seq.mode = .roll) :
    decideDisengage p s =
      (spinDownOutcome s .request (some ⟨p, .disengage, s.timeBase⟩), .taken) := by
  have hspin : enterSpinDown .request (openRequest p .disengage s) =
      spinDownOutcome s .request (some ⟨p, .disengage, s.timeBase⟩) := by
    rw [enterSpinDown_eq]
    rfl
  rw [← hspin]
  unfold decideDisengage
  rcases hm with hm | hm <;> rw [hm]

theorem decideDisengage_shiftingIn (hm : s.seq.mode = .shiftingIn) :
    decideDisengage p s = (releaseOutcome s .request (some ⟨p, .disengage, s.timeBase⟩)
      (outcomeNotices s s.seq.request .superseded (portCode p)) [], .taken) := by
  rw [← disengageInShift_eq]
  unfold decideDisengage
  rw [hm]

/-- R34: in DISENGAGING this port becomes the requester. -/
theorem decideDisengage_again (hm : s.seq.mode = .disengaging)
    (hother : ∀ r, s.seq.request = some r → r.requester ≠ p) :
    decideDisengage p s = ({ s with
      seq := { s.seq with request := some ⟨p, .disengage, s.timeBase⟩ }
      hand := s.hand ++ outcomeNotices s s.seq.request .superseded (portCode p) }, .taken) := by
  unfold decideDisengage takeDisengage
  rw [hm]
  dsimp only
  cases hq : s.seq.request with
  | none => simp [openRequest, outcomeNotices]
  | some q =>
    dsimp only
    rw [if_neg (hother q hq), postOutcome_eq _ (by cases p <;> decide), hq]
    rfl

theorem decideDisengage_same (hm : s.seq.mode = .disengaging) {r : OpenRequest}
    (hq : s.seq.request = some r) (hr : r.requester = p) :
    decideDisengage p s = (s, .taken) := by
  unfold decideDisengage takeDisengage
  rw [hm]
  dsimp only
  rw [hq]
  dsimp only
  rw [if_pos hr]

theorem spinDownOutcome_links (s : State) (why : Reason) (r : Option OpenRequest) :
    (spinDownOutcome s why r).links = s.links := by
  rw [spinDownOutcome_eq]
  split
  · exact releaseOutcome_links
  · rfl

end Disengage

/-- Settles O42. -/
theorem disengageReleasesThePto : Obligations.DisengageReleasesThePto := by
  unfold Obligations.DisengageReleasesThePto
  refine ⟨?_, ?_⟩
  · intro w p s hp hs ha hr u links mine
    have hu : u.hand = [] := (advance_hand _ _).trans hs
    have hseq : u.seq = s.seq := advance_seq _ _
    have hroll : false = true → portHolds s p .roll = true := fun h => Bool.noConfusion h
    refine ⟨fun hm => ?_, fun hm => ?_, fun hm => ?_,
      fun hm => ⟨fun hother => ?_, fun r hq hr' => ?_⟩⟩
    · refine exec_mode_answered (c := .disengage w p) (w := w) rfl rfl hp hs ha rfl hr hroll ?_
      unfold decideDisengage
      rw [advance_seq]
      rcases hm with hm | hm | hm | hm <;> rw [hm]
    · have hexec := exec_mode (c := .disengage w p) (w := w) rfl rfl hp hs ha rfl hr hroll
        (decideDisengage_pumping (s := u) (p := p) (by rw [hseq]; exact hm))
        ((spinDownOutcome_links u _ _).trans (advance_links _ _))
      refine ⟨hexec, fun hfast => ?_, fun hslow => ?_⟩
      · rw [spinDownOutcome_eq, if_neg (by rw [advance_lio, conf_advance]; omega)] at hexec
        obtain ⟨t, heq, hstill, hend⟩ := settled_gives hexec (settling_spinning hu) rfl (.inr rfl)
        refine ⟨t, heq, hstill, ?_⟩
        rw [hend]
        exact ⟨rfl, rfl, rfl, rfl, rfl, rfl⟩
      · rw [spinDownOutcome_eq, if_pos (by rw [advance_lio, conf_advance]; omega)] at hexec
        obtain ⟨hsettling, hmov⟩ := settling_releaseOutcome (s := spinning u .request (some mine))
          (why := .condition) (r := some mine) (before := []) (after := []) (links := links)
          (all_spinning rfl hu) rfl rfl
        obtain ⟨t, heq, hstill, hend⟩ := settled_gives hexec hsettling rfl (.inr hmov)
        refine ⟨t, heq, ?_⟩
        rw [hend]
        dsimp only
        rw [releaseOutcome_seq]
        have hf : feedback (spinning u .request (some mine)) = feedback s := feedback_advance _ _
        have hd : derivedMode (spinning u .request (some mine)) = derivedMode s :=
          derivedMode_advance _ _
        rw [hf]
        refine ⟨?_, fun hset => ?_, fun hclear => ?_⟩
        · split <;> rfl
        · rw [if_pos hset]
          refine ⟨rfl, rfl, rfl, rfl, ?_⟩
          show some (Timer.mk u.timeBase (conf u).timing.release) = _
          rw [conf_advance]
        · rw [hclear, if_neg Bool.false_ne_true]
          exact ⟨hd, rfl, rfl⟩
    · have hexec := exec_mode (c := .disengage w p) (w := w) rfl rfl hp hs ha rfl hr hroll
        (decideDisengage_shiftingIn (s := u) (p := p) (by rw [hseq]; exact hm))
        (releaseOutcome_links.trans (advance_links _ _))
      rw [hseq] at hexec
      refine ⟨hexec, ?_⟩
      obtain ⟨hsettling, hmov⟩ := settling_releaseOutcome (s := u) (why := .request)
        (r := some mine) (before := outcomeNotices u s.seq.request .superseded (portCode p))
        (after := []) (links := links) (by rw [hu]; rfl) (all_outcomeNotices _ _ _ _) rfl
      obtain ⟨t, heq, hstill, hend⟩ := settled_gives hexec hsettling rfl (.inr hmov)
      refine ⟨t, heq, ?_, ?_⟩
      · rw [hstill]
        show { still (releaseOutcome u .request _ _ _) with links := links } = _
        rw [still_releaseOutcome]
      rw [hend]
      dsimp only
      rw [releaseOutcome_seq, feedback_advance]
      cases hf : feedback s with
      | true =>
        rw [if_pos rfl]
        refine ⟨rfl, rfl, rfl, fun _ => ⟨rfl, rfl, rfl, ?_⟩, fun h => Bool.noConfusion h⟩
        show some (Timer.mk u.timeBase (conf u).timing.release) = _
        rw [conf_advance]
      | false =>
        rw [if_neg Bool.false_ne_true]
        exact ⟨rfl, pumpReadyFor_derivedMode u _, rfl, fun h => Bool.noConfusion h,
          fun _ => ⟨derivedMode_advance _ _, rfl, rfl, rfl⟩⟩
    · have hd := decideDisengage_again (s := u) (p := p) (by rw [hseq]; exact hm)
        (by rw [hseq]; exact hother)
      rw [hseq, hu, List.nil_append] at hd
      exact exec_mode (c := .disengage w p) (w := w) rfl rfl hp hs ha rfl hr hroll hd
        (advance_links _ _)
    · exact exec_mode_answered (c := .disengage w p) (w := w) rfl rfl hp hs ha rfl hr hroll
        (decideDisengage_same (s := u) (by rw [hseq]; exact hm) (by rw [hseq]; exact hq) hr')
  · intro w p s kind hp hs ha u
    refine ⟨fun r h => ?_, fun hlt => ?_⟩
    · refine exec_mode_refused (c := .disengage w p) (w := w) rfl rfl hp hs (by decide) ha ?_
      rcases h with ⟨hk, hr, rfl⟩ | ⟨hk, hr, rfl⟩
      · exact .inl ⟨hk.imp_left (congrArg BitVec.toNat), hr, rfl⟩
      · exact .inr (.inl ⟨hk, hr, rfl⟩)
    · exact exec_mode_other (c := .disengage w p) (w := w) rfl rfl hp hs ha
        (by show kind.toNat ≠ 3; omega) (by omega)

/-! ### The sequencer's timers -/

section Timers

variable {s : State}

/-- What is under way while the end of a release waits its turn. -/
abbrev releaseTraffic : Traffic := ⟨true, false, true⟩

/-- R21: SEQ's record when a release completes, `u` being the one before and `m` the mode
derived. -/
def doneSeq (u : SeqUnit) (m : Mode) : SeqUnit :=
  { u with
    mode := m, sub := none, reason := .condition, request := none, startWait := none
    shiftTimer := none, spinLimit := none, releaseTimer := none, ptoShift := false
    pumpReady := false }

/-- R20: the end of a release, taken in RELEASE with the feedback clear. -/
theorem seqTakesRelease_done {u : SeqUnit} (h : Settling releaseTraffic u s)
    (hm : u.mode = .disengaging) (hsub : u.sub = some .release) (hf : feedback s = false)
    (hrequest : u.request = none) :
    Settling releaseTraffic (doneSeq u (derivedMode s)) (seqTakesRelease s) := by
  have hmode : s.seq.mode = .disengaging := h.mode.trans hm
  have hsub' : s.seq.sub = some .release := (congrArg SeqUnit.sub h.seq).trans hsub
  have hrequest' : s.seq.request = none := (congrArg SeqUnit.request h.seq).trans hrequest
  rw [seqTakesRelease_eq, if_pos ⟨hmode, hsub', hf⟩]
  refine ⟨fun g hg => ?_, ?_, fun hfree => Bool.noConfusion hfree⟩
  · rcases List.mem_append.mp hg with hg | hg
    · rcases List.mem_append.mp hg with hg | hg
      · exact h.ensuing g hg
      · rcases List.mem_cons.mp hg with rfl | hg
        · rfl
        · exact List.all_eq_true.mp (all_modeHandovers _) g hg
    · rw [hrequest'] at hg
      cases hg
  · dsimp only [restingSeq, doneSeq]
    rw [h.seq, pumpReadyFor_derivedMode]

/-- R20, R21: a release found clear at its entry still waits with its end under way, SEQ's record
being `u` but for the block set it is handed, or it is complete. -/
structure ReleaseEnds (x : Still) (u : SeqUnit) (m : Mode) (s : State) : Prop where
  still_eq : still s = x
  waits_or_done :
    (Settling releaseTraffic u s ∧ .releaseToSeq ∈ s.hand) ∨
      Settling releaseTraffic (doneSeq u m) s

theorem ReleaseEnds.deliver {s0 : State} {u : SeqUnit} (hm : u.mode = .disengaging)
    (hsub : u.sub = some .release) (hrequest : u.request = none) (hf : feedback s0 = false)
    {h : Handover} {mid tail : List Handover}
    (hs : ReleaseEnds (still s0) u (derivedMode s0) s) (hhand : s.hand = mid ++ h :: tail) :
    ReleaseEnds (still s0) u (derivedMode s0) (deliver h { s with hand := mid ++ tail }) := by
  obtain ⟨hstill, hcases⟩ := hs
  refine ⟨(still_deliver h _).trans hstill, ?_⟩
  have hrest : ∀ g ∈ mid ++ tail, g ∈ s.hand := fun g hg => by
    rw [hhand]
    simp only [List.mem_append, List.mem_cons] at hg ⊢
    tauto
  have hh : h ∈ s.hand := by
    rw [hhand]
    simp
  rcases hcases with ⟨hsettling, hwaits⟩ | hdone
  · have hwith := hsettling.withHand hrest
    by_cases he : h = .releaseToSeq
    · subst he
      refine .inr ?_
      have hd : derivedMode { s with hand := mid ++ tail } = derivedMode s0 :=
        derivedMode_of_still hstill
      rw [← hd]
      exact seqTakesRelease_done hwith hm hsub ((feedback_of_still hstill).trans hf) hrequest
    · refine .inl ⟨hwith.deliver (hsettling.ensuing _ hh) he (.inr (by rw [hm]; rfl)), ?_⟩
      refine (hwith.ensuing_deliver (hsettling.ensuing _ hh) he (.inr (by rw [hm]; rfl))).mem ?_
      rw [hhand] at hwaits
      simp only [List.mem_append, List.mem_cons] at hwaits ⊢
      rcases hwaits with hw | hw | hw
      · exact .inl hw
      · exact absurd hw.symm he
      · exact .inr hw
  · have hwith := hdone.withHand hrest
    have hmov : movable (doneSeq u (derivedMode s0)).mode = false := by
      rcases derivedMode_cases s0 with hd | hd <;> simp [doneSeq, hd, movable]
    by_cases he : h = .releaseToSeq
    · subst he
      refine .inr ?_
      have hmode : s.seq.mode = derivedMode s0 := hdone.mode
      rw [Machine.deliver, seqTakesRelease_eq, if_neg]
      · exact hwith
      · rintro ⟨hno, -⟩
        have hno : s.seq.mode = .disengaging := hno
        rw [hmode] at hno
        rcases derivedMode_cases s0 with hd | hd <;> rw [hd] at hno <;> cases hno
    · exact .inr (hwith.deliver (hdone.ensuing _ hh) he (.inr hmov))

theorem ReleaseEnds.takeHandovers {s0 : State} {u : SeqUnit} (hm : u.mode = .disengaging)
    (hsub : u.sub = some .release) (hrequest : u.request = none) (hf : feedback s0 = false)
    (hs : ReleaseEnds (still s0) u (derivedMode s0) s) (w : When) :
    ReleaseEnds (still s0) u (derivedMode s0) (takeHandovers w s) := by
  rw [takeHandovers_eq]
  exact settle_in_order (ReleaseEnds (still s0) u (derivedMode s0))
    (fun _ _ _ _ hs hhand _ => hs.deliver hm hsub hrequest hf hhand) _ _ _ hs

/-- R12, R20: the state when the shift timer has expired. -/
def expiredShift (s : State) : State :=
  { s with
    seq := releasingSeq s .timeout none
    hand := modeNotice s .timeout .disengaging (some .release) .shiftingIn s.seq.sub ::
      modeHandovers .disengaging ++ outcomeNotices s s.seq.request .timedOut 0 ++
        if feedback s then [] else [.releaseToSeq] }

theorem expireShift_shiftingIn (hm : s.seq.mode = .shiftingIn) (hs : s.hand = []) :
    expireShift s = expiredShift s := by
  rw [expireShift_eq, hm, hs]
  rfl

theorem settling_expiredShift (k : Traffic) (hmodes : k.modes = true) (hfree : k.free = false)
    (hrelease : feedback s = true ∨ k.release = true) :
    Settling k (expiredShift s).seq (expiredShift s) := by
  refine .of_ready ?_ rfl fun h => Bool.noConfusion (hfree.symm.trans h)
  have hend : (if feedback s then [] else [Handover.releaseToSeq]).all (ensues k) = true := by
    rcases hrelease with h | h
    · rw [h]
      rfl
    · split
      · rfl
      · simp [ensues, h]
  unfold expiredShift
  simp only [List.all_append, List.all_cons, ensues_modeNotice, all_modeHandovers, hmodes,
    all_outcomeNotices, hend, Bool.and_self]

/-- R20, R21: the end of a step in which the shift timer has expired with the feedback clear. -/
theorem releaseEnds_expiredShift (hf : feedback s = false) :
    ReleaseEnds (still s) (expiredShift s).seq (derivedMode s) (expiredShift s) := by
  refine ⟨rfl, .inl ⟨settling_expiredShift _ rfl rfl (.inr rfl), ?_⟩⟩
  unfold expiredShift
  rw [hf]
  simp

/-- R22: a release that has failed. -/
theorem failRelease_eq (hm : s.seq.mode = .disengaging) (hsub : s.seq.sub = some .release) :
    failRelease s = { s with
      seq := { s.seq with
        mode := .stuck, sub := none, reason := .timeout, request := none, startWait := none
        shiftTimer := none, spinLimit := none, releaseTimer := none, ptoShift := false
        pumpReady := false }
      hand := s.hand ++ modeNotice s .timeout .stuck none .disengaging (some .release) ::
        modeHandovers .stuck ++ outcomeNotices s s.seq.request .failed 0 } := by
  rw [failRelease, closeRequest_eq, transition_eq, hm, hsub]
  simp [ptoShiftFor, pumpReadyFor, outcomeNotices, notice]

end Timers

/-- Settles O43. -/
theorem sequencerTimersRunOut : Obligations.SequencerTimersRunOut := by
  unfold Obligations.SequencerTimersRunOut
  refine ⟨?_, ?_, ?_, ?_, ?_⟩
  · intro w s hp hs hm u hdue
    have hu : u.hand = [] := (advance_hand _ _).trans hs
    have hseq : u.seq = s.seq := advance_seq _ _
    have hexec : exec (.shiftTimerExpiry w) s = .next (takeHandovers w (expiredShift u)) := by
      rw [exec_running (c := .shiftTimerExpiry w) (w := w) rfl rfl hp hs,
        if_pos ⟨by rw [advance_seq, hm], by rw [advance_seq, hdue]⟩,
        expireShift_shiftingIn (by rw [advance_seq, hm]) hu]
    refine ⟨?_, ?_⟩
    · rw [hexec, expiredShift, hseq, feedback_advance]
    cases hf : feedback s with
    | true =>
      obtain ⟨t, heq, hstill, hend⟩ := settled_gives hexec
        (settling_expiredShift ⟨true, false, false⟩ rfl rfl
          (.inl ((feedback_advance _ _).trans hf)))
        rfl (.inr rfl)
      refine ⟨t, heq, hstill, ?_⟩
      rw [hend]
      refine ⟨rfl, rfl, rfl, rfl, fun _ => ⟨rfl, rfl, rfl, ?_⟩, fun h => Bool.noConfusion h⟩
      show some (Timer.mk u.timeBase (conf u).timing.release) = _
      rw [conf_advance]
    | false =>
      have hends := (releaseEnds_expiredShift ((feedback_advance w.dt s).trans hf)).takeHandovers
        rfl rfl rfl ((feedback_advance _ _).trans hf) w
      obtain ⟨hstill, hcases⟩ := hends
      refine ⟨_, hexec, hstill, ?_⟩
      rcases hcases with ⟨hwaits, hmem⟩ | hdone
      · rw [hwaits.seq]
        refine ⟨rfl, rfl, rfl, rfl, fun h => Bool.noConfusion h, fun _ htakes => ?_⟩
        rw [takeHandovers, htakes] at hmem
        rw [settleAll_hand] at hmem
        cases hmem
      · rw [hdone.seq]
        exact ⟨rfl, rfl, rfl, pumpReadyFor_derivedMode _ _, fun h => Bool.noConfusion h,
          fun _ _ => ⟨derivedMode_advance _ _, rfl, rfl, rfl⟩⟩
  · intro s t waits
    have ht : t = _ := seqTakesRelease_eq s
    exact ⟨fun h => ht.trans (if_pos h), fun h => ht.trans (if_neg h)⟩
  · intro w p s hp hdt hm ha hr
    refine exec_mode_at_once (c := .engage w p) (w := w) rfl rfl hp hdt ha rfl hr
      (fun h => Bool.noConfusion h) (decideEngage_answered ?_)
    rw [EngageAnswer, advance_seq, advance_cfg]
    cases hbusy : s.cfg.storeBusy with
    | true => exact .inl ⟨rfl, rfl⟩
    | false => exact .inr ⟨rfl, by simp [hm]⟩
  · intro w s hp hs hm u hsub hdue
    rw [exec_running (c := .spinDownLimitExpiry w) (w := w) rfl rfl hp hs,
      if_pos ⟨by rw [advance_seq, hm], by rw [advance_seq, hsub], by rw [advance_seq, hdue]⟩,
      enterRelease_eq, advance_seq]
  · intro w s hp hm hsub u hdue h
    have hpass : pass w.dt s = u := by
      rcases h with ⟨hs, -⟩ | ⟨hdt, -⟩
      · exact pass_of_hand_nil _ hs
      · rw [hdt, pass_zero, ← hdt]
    have hset : feedbackStillSet u = true := by
      rw [feedbackStillSet, feedback_advance, advance_hand, Bool.or_eq_true]
      rcases h with ⟨-, hf⟩ | ⟨-, word, hmem, hword⟩
      · exact .inl hf
      · exact .inr (List.any_eq_true.mpr ⟨_, hmem, by simp [clearsFeedback, hword]⟩)
    have hrun : u.phase = .running := (advance_phase _ _).trans hp
    have hseq : u.seq = s.seq := advance_seq _ _
    have hhand : u.hand = s.hand := advance_hand _ _
    rw [exec_next_eq]
    dsimp only [whenOf, effectOf]
    rw [hpass, whenRunning_running _ hrun,
      if_pos ⟨by rw [hseq, hm], by rw [hseq, hsub], hset, by rw [hseq, hdue]⟩,
      failRelease_eq (by rw [hseq, hm]) (by rw [hseq, hsub]), hseq, hhand]

end Sys2Proof.Machine
end

section
/-! GOV: SET_GOVERNOR, the update, the fallback, and the intake watch. -/

namespace Sys2Proof.Machine

/-! ### Requests that change a unit and hand nothing on -/

theorem exec_request_links {c : Instr} {w : When} {p : Port} {kind : RequestKind}
    {args : List Word} {decide_ : List Word → State → State × Result × List Word} {s : State}
    (hc : effectOf c = whenRunning (serve p kind decide_)) (hw : whenOf c = w)
    (hp : s.phase = .running) (hs : s.hand = []) (ha : askedOf s p kind = some args) {u : State}
    {r : Result} {data : List Word} (hd : decide_ args (advance w.dt s) = (u, r, data))
    (hl : u.links = s.links) :
    exec c s = .next (takeHandovers w { u with links := answered s p ⟨kind, r, data⟩ }) := by
  rw [exec_request hc hw hp hs ha hd, answered, hl, answered]

theorem exec_request_quiet {c : Instr} {w : When} {p : Port} {kind : RequestKind}
    {args : List Word} {decide_ : List Word → State → State × Result × List Word} {s : State}
    (hc : effectOf c = whenRunning (serve p kind decide_)) (hw : whenOf c = w)
    (hp : s.phase = .running) (hs : s.hand = []) (ha : askedOf s p kind = some args) {u : State}
    {r : Result} {data : List Word} (hd : decide_ args (advance w.dt s) = (u, r, data))
    (hl : u.links = s.links) (hhand : u.hand = []) :
    exec c s = .next { u with links := answered s p ⟨kind, r, data⟩ } := by
  rw [exec_request_links hc hw hp hs ha hd hl]
  exact congrArg _ (takeHandovers_of_hand_nil w hhand)

/-! ### SET_GOVERNOR -/

section SetGovernor

variable {s : State} {p : Port} {m sp sn : Word}

theorem governingArgument_none_iff (n : Nat) : governingArgument n = none ↔ 2 < n := by
  match n with
  | 0 | 1 | 2 => simp [governingArgument]
  | n + 3 => simp [governingArgument]

theorem decideSetGovernor_refused {r : Result}
    (h : (portHolds s p .govern = false ∧ r = .noRight) ∨
      (portHolds s p .govern = true ∧ 2 < m.toNat ∧ r = .badArgument) ∨
      (portHolds s p .govern = true ∧ m = 1 ∧ s.gov.faultMark = true ∧ r = .faulted)) :
    decideSetGovernor p [m, sp, sn] s = (s, r, governorData s) := by
  unfold decideSetGovernor
  rcases h with ⟨hright, rfl⟩ | ⟨hright, hm, rfl⟩ | ⟨hright, rfl, hmark, rfl⟩
  · rw [if_pos (by simp [hright])]
  · rw [if_neg (by simp [hright]), show argAt [m, sp, sn] 0 = m.toNat from rfl,
      (governingArgument_none_iff _).mpr hm]
  · rw [if_neg (by simp [hright])]
    exact if_pos ⟨rfl, hmark⟩

theorem decideSetGovernor_taken {x : Option GoverningMode} (hright : portHolds s p .govern = true)
    (hm : governingArgument m.toNat = some x) (hx : ¬(x = some .pressure ∧ s.gov.faultMark)) :
    decideSetGovernor p [m, sp, sn] s =
      (applyGovernor x sp.toNat sn.toNat s,
        if setpointClamped 200 2400 sp.toNat || setpointClamped 600 3000 sn.toNat then .clamped
        else .ok,
        governorData (applyGovernor x sp.toNat sn.toNat s)) := by
  unfold decideSetGovernor
  rw [if_neg (by simp [hright]), show argAt [m, sp, sn] 0 = m.toNat from rfl, hm]
  exact if_neg hx

theorem setpointAfter_eq {lo hi : Nat} (hle : lo ≤ hi) (arg : Word) (old : Nat) :
    setpointAfter lo hi arg.toNat old = if arg = 0 then old else min hi (max lo arg.toNat) := by
  have hzero : arg.toNat = 0 ↔ arg = 0 := ⟨fun h => BitVec.eq_of_toNat_eq h, fun h => h ▸ rfl⟩
  unfold setpointAfter clampNat
  simp only [hzero]
  split
  · rfl
  · repeat' split
    all_goals omega

theorem setpointClamped_iff (lo hi : Nat) (arg : Word) :
    setpointClamped lo hi arg.toNat = true ↔ arg ≠ 0 ∧ (arg.toNat < lo ∨ hi < arg.toNat) := by
  have hzero : arg.toNat = 0 ↔ arg = 0 := ⟨fun h => BitVec.eq_of_toNat_eq h, fun h => h ▸ rfl⟩
  have hin : within lo hi arg.toNat = false ↔ arg.toNat < lo ∨ hi < arg.toNat := by
    rw [← Bool.not_eq_true, within_iff]
    omega
  simp only [setpointClamped, Bool.and_eq_true, bne_iff_ne, ne_eq, Bool.not_eq_true', hin, hzero]

/-- R86: the governing mode and e_prev that a mode argument gives. -/
theorem setGoverning_eq (x : Option GoverningMode) (u : GovUnit) :
    setGoverning x u = { u with
      governing := x.getD u.governing
      ePrev := if x.getD u.governing = u.governing then u.ePrev else 0 } := by
  unfold setGoverning
  cases x with
  | none => simp
  | some m =>
    dsimp only
    split
    · next h => simp [h]
    · next h => simp [h]

theorem governingArgument_getD {x : Option GoverningMode} (hx : governingArgument m.toNat = some x)
    (old : GoverningMode) :
    x.getD old = if m = 1 then .pressure else if m = 2 then .speed else old := by
  have hle : m.toNat ≤ 2 := by
    by_contra h
    rw [(governingArgument_none_iff _).mpr (by omega)] at hx
    cases hx
  have h : m = 0 ∨ m = 1 ∨ m = 2 := by
    rcases (by omega : m.toNat = 0 ∨ m.toNat = 1 ∨ m.toNat = 2) with h | h | h
    · exact .inl (BitVec.eq_of_toNat_eq h)
    · exact .inr (.inl (BitVec.eq_of_toNat_eq h))
    · exact .inr (.inr (BitVec.eq_of_toNat_eq h))
  rcases h with rfl | rfl | rfl <;> cases hx <;> rfl

end SetGovernor

/-- Settles O44. -/
theorem setGovernorSetsTheRecord : Obligations.SetGovernorSetsTheRecord := by
  unfold Obligations.SetGovernorSetsTheRecord
  intro w p s m sp sn hp hs ha u data point clamped
  have hgov : u.gov = s.gov := advance_gov _ _
  refine ⟨fun r h => ?_, fun hright hm hmark => ?_⟩
  · have hd := decideSetGovernor_refused (s := u) (p := p) (m := m) (sp := sp) (sn := sn) (r := r)
      (by rw [portHolds_advance, hgov]; exact h)
    rw [governorData, hgov] at hd
    exact exec_answered (c := .setGovernor w p) (w := w) rfl rfl hp hs ha hd
  · obtain ⟨x, hx⟩ : ∃ x, governingArgument m.toNat = some x := by
      cases h : governingArgument m.toNat with
      | some x => exact ⟨x, rfl⟩
      | none => exact absurd ((governingArgument_none_iff _).mp h) (by omega)
    have hpressure : x = some .pressure → m = 1 := fun h => by
      subst h
      have hone := governingArgument_getD hx .speed
      by_contra hne
      rw [if_neg hne] at hone
      split at hone <;> cases hone
    have hd := decideSetGovernor_taken (s := u) (p := p) (sp := sp) (sn := sn)
      (by rw [portHolds_advance]; exact hright) hx
      (by rw [hgov]; exact fun h => hmark ⟨hpressure h.1, h.2⟩)
    have happly : applyGovernor x sp.toNat sn.toNat u = { u with gov := { s.gov with
        sp := point 200 2400 s.gov.sp sp, sn := point 600 3000 s.gov.sn sn
        governing := x.getD s.gov.governing
        ePrev := if x.getD s.gov.governing = s.gov.governing then s.gov.ePrev else 0 } } := by
      rw [applyGovernor, setGoverning_eq, setpointAfter_eq (by decide),
        setpointAfter_eq (by decide), hgov]
    have hclamped : (setpointClamped 200 2400 sp.toNat ||
        setpointClamped 600 3000 sn.toNat) = true ↔ clamped := by
      rw [Bool.or_eq_true, setpointClamped_iff, setpointClamped_iff]
    rw [happly] at hd
    refine ⟨_, _, exec_request_quiet (c := .setGovernor w p) (w := w) rfl rfl hp hs ha hd
      (advance_links _ _) ((advance_hand _ _).trans hs), rfl, ?_, ?_,
      governingArgument_getD hx _, rfl⟩
    · rw [← hclamped]
      split <;> simp_all
    · rw [← hclamped]
      split <;> simp_all

/-! ### The update -/

section Update

/-- "Rounded": the nearest integer, a tie away from zero. -/
theorem roundedDiv_256 (n : Int) :
    2 * |256 * roundedDiv n 256 - n| ≤ 256 ∧
      (2 * |256 * roundedDiv n 256 - n| = 256 → |n| < |256 * roundedDiv n 256|) := by
  unfold roundedDiv
  simp only [Int.abs_eq_natAbs]
  split
  · next hn =>
    rw [Int.tdiv_eq_ediv_of_nonneg (by omega)]
    omega
  · next hn =>
    rw [show (2 * n - ((256 : Nat) : Int)) = -(2 * (-n) + 256) by push_cast; ring, Int.neg_tdiv,
      Int.tdiv_eq_ediv_of_nonneg (by omega)]
    omega

theorem clampInt_eq {lo hi : Int} (h : lo ≤ hi) (x : Int) :
    clampInt lo hi x = max lo (min hi x) := by
  unfold clampInt
  repeat' split
  all_goals omega

variable (pd : Int) (s : State)

/-- R80: C_intake as an update begins. -/
def rampedIntake (s : State) : Nat :=
  if s.gov.watch = .low then s.gov.d - (conf s).gains.slew else s.gov.cIntake

/-- R77: C as an update leaves it. -/
def updatedCeiling (s : State) : Nat :=
  ceilingFor (conf s).gains.ceiling (rampedIntake s) s.gov.blocks

/-- R77: D as an update leaves it. -/
def updatedDemand (s : State) (e : Int) : Nat :=
  (clampInt 0 (updatedCeiling s) (s.gov.d + governorIncrement s e)).toNat

theorem governorUpdate_eq :
    governorUpdate pd s = setDemand (updatedDemand s (governorError s pd)) { s with
      gov := { s.gov with
        cIntake := rampedIntake s, c := updatedCeiling s, ePrev := governorError s pd } } := by
  unfold governorUpdate updatedDemand updatedCeiling rampedIntake rampIntake
  split <;> rfl

theorem governorUpdate_gov :
    (governorUpdate pd s).gov = { s.gov with
      cIntake := rampedIntake s, c := updatedCeiling s, ePrev := governorError s pd
      d := updatedDemand s (governorError s pd) } := by
  rw [governorUpdate_eq, setDemand_gov]

theorem governorUpdate_hand :
    (governorUpdate pd s).hand = s.hand ++
      if (governorUpdate pd s).gov.d = s.gov.d then []
      else [.arrival .gov .throttleDemand (some (governorUpdate pd s).gov.d)] := by
  have h := setDemand_governed s { s.gov with
      cIntake := rampedIntake s, c := updatedCeiling s, ePrev := governorError s pd }
    (updatedDemand s (governorError s pd)) [] rfl
  simp only [List.append_nil] at h
  rw [governorUpdate_gov, governorUpdate_eq]
  exact (congrArg State.hand h.1).trans (by simp)

/-- R77: the demand in exact arithmetic. -/
theorem updatedDemand_eq (e : Int) :
    (updatedDemand s e : Int) =
      max 0 (min (updatedCeiling s : Int) (s.gov.d + governorIncrement s e)) := by
  rw [updatedDemand, clampInt_eq (Int.natCast_nonneg _)]
  omega

theorem governorIncrement_eq (e : Int) :
    governorIncrement s e =
      max (-((conf s).gains.slew : Int))
        (min ((conf s).gains.slew : Int) (roundedDiv (governorSum s e) 256)) :=
  clampInt_eq (by omega) _

/-- R77, R80: the bounds of one update. -/
theorem governorUpdate_bounds :
    let t := governorUpdate pd s
    let g := (conf s).gains
    t.gov.d ≤ s.gov.d + g.slew ∧ t.gov.d ≤ t.gov.c ∧ t.gov.c ≤ g.ceiling ∧
    -1000 ≤ t.gov.ePrev ∧ t.gov.ePrev ≤ 1000 ∧
    (holdsBlock s.gov.blocks .throttle = true → t.gov.d = 0) ∧
    (s.gov.watch = .low → holdsBlock s.gov.blocks .throttle = false →
      t.gov.d = min (s.gov.d - g.slew) g.ceiling) := by
  intro t g
  have hgov : t.gov = _ := governorUpdate_gov pd s
  have hd := updatedDemand_eq s (governorError s pd)
  have hq := governorIncrement_eq s (governorError s pd)
  have herror := governorError_bounds s pd
  rw [hgov]
  dsimp only [g]
  generalize updatedDemand s (governorError s pd) = d at *
  generalize governorIncrement s (governorError s pd) = q at *
  have hceiling : updatedCeiling s ≤ (conf s).gains.ceiling := by
    unfold updatedCeiling ceilingFor
    split <;> omega
  refine ⟨by omega, by omega, hceiling, herror.1, herror.2, fun hb => ?_, fun hlow hb => ?_⟩
  · have hzero : updatedCeiling s = 0 := if_pos hb
    omega
  · have hc : updatedCeiling s =
        min (conf s).gains.ceiling (s.gov.d - (conf s).gains.slew) := by
      rw [updatedCeiling, ceilingFor, hb, if_neg Bool.false_ne_true, rampedIntake, if_pos hlow]
    omega

end Update

/-! ### Channel 0 arrivals and block sets -/

section Discharge

variable {s : State} {pd : Int} {faulted : Bool}

theorem fallbackCheck_of_none (h : faulted = false ∨ s.gov.governing = .speed) :
    fallbackCheck faulted s = { s with gov := { s.gov with faultMark := faulted } } := by
  rw [fallbackCheck_eq, if_neg]
  rintro ⟨hf, hp⟩
  rcases h with h | h
  · cases h.symm.trans hf
  · cases h.symm.trans hp

theorem govTakesDischarge_pumping (hm : pumping s.gov.mode = true) :
    govTakesDischarge pd faulted s = governorUpdate pd (fallbackCheck faulted s) := if_pos hm

theorem govTakesDischarge_idle (hm : pumping s.gov.mode = false) :
    govTakesDischarge pd faulted s = fallbackCheck faulted s := if_neg (by simp [hm])

/-- What the fallback leaves of GOV's record. -/
theorem fallbackCheck_keeps (faulted : Bool) (s : State) :
    let t := fallbackCheck faulted s
    conf t = conf s ∧ t.gov.d = s.gov.d ∧ t.gov.blocks = s.gov.blocks ∧
      t.gov.watch = s.gov.watch ∧ t.gov.cIntake = s.gov.cIntake ∧ t.gov.faultMark = faulted ∧
      t.lio = s.lio ∧ t.gov.sp = s.gov.sp := by
  intro t
  have ht : t = _ := fallbackCheck_eq faulted s
  rw [ht]
  split
  · next h => exact ⟨rfl, rfl, rfl, rfl, rfl, h.1.symm, rfl, rfl⟩
  · exact ⟨rfl, rfl, rfl, rfl, rfl, rfl, rfl, rfl⟩

end Discharge

/-- Settles O45. -/
theorem updatesAreSlewLimitedAndRamped : Obligations.UpdatesAreSlewLimitedAndRamped := by
  unfold Obligations.UpdatesAreSlewLimitedAndRamped
  refine ⟨?_, ?_⟩
  · intro s pd faulted hm t g
    have ht : t = governorUpdate pd (fallbackCheck faulted s) := govTakesDischarge_pumping hm
    refine ⟨fun hnone => ?_, ?_⟩
    · intro pressure e sum intake ceiling
      rw [fallbackCheck_of_none hnone] at ht
      let x : State := { s with gov := { s.gov with faultMark := faulted } }
      have herror : governorError x pd = e := by
        unfold governorError
        rw [clampInt_eq (by decide)]
        cases hg : s.gov.governing <;> simp [x, e, pressure, hg]
      have hsum : governorSum x e = sum := by
        unfold governorSum
        cases hg : s.gov.governing <;> simp [x, sum, pressure, g, hg, conf]
      have hceiling : updatedCeiling x = ceiling := rfl
      have hd := updatedDemand_eq x e
      rw [governorIncrement_eq, hsum, hceiling] at hd
      have hgov := governorUpdate_gov pd x
      rw [← ht, herror] at hgov
      have hhand := governorUpdate_hand pd x
      rw [← ht] at hhand
      refine ⟨roundedDiv sum 256, (roundedDiv_256 sum).1, (roundedDiv_256 sum).2, ?_, ?_⟩
      · rw [hgov]
        exact hd
      · exact ⟨congrArg GovUnit.ePrev hgov, (congrArg GovUnit.c hgov).trans hceiling,
          congrArg GovUnit.cIntake hgov, (congrArg GovUnit.sp hgov).trans rfl,
          (congrArg GovUnit.sn hgov).trans rfl, (congrArg GovUnit.governing hgov).trans rfl,
          (congrArg GovUnit.watch hgov).trans rfl, hhand⟩
    · obtain ⟨hconf, hd, hblocks, hwatch, -⟩ := fallbackCheck_keeps faulted s
      have hbounds := governorUpdate_bounds pd (fallbackCheck faulted s)
      rw [hconf, hd, hblocks, hwatch, ← ht] at hbounds
      exact hbounds
  · intro s b t seen held holds least
    refine ⟨fun hheld hholds => ?_, fun hheld hholds => ?_, fun heq => if_pos heq⟩
    · have h := govTakesBlocks_governed b s
        fun hn => Bool.noConfusion (hholds.symm.trans (hn.trans hheld))
      dsimp only at h
      rw [if_pos hholds, Nat.min_zero] at h
      exact h
    · have h := govTakesBlocks_governed b s
        fun hn => Bool.noConfusion (hholds.symm.trans (hn.trans hheld))
      dsimp only at h
      rw [if_neg fun hn => Bool.noConfusion (hholds.symm.trans hn)] at h
      refine ⟨h, fun hsound => ?_⟩
      have hzero : s.gov.d = 0 := hsound.2.2.1 hheld
      have hd : t.gov.d = min s.gov.d least := (congrArg (fun x => x.gov.d) h.1).trans rfl
      rw [hd, hzero, Nat.zero_min]

/-- With no error an update leaves D under its ceiling as it is. -/
theorem updatedDemand_of_no_error {s : State} (he : s.gov.ePrev = 0)
    (hceiling : s.gov.d ≤ (conf s).gains.ceiling) (hintake : s.gov.d ≤ s.gov.cIntake)
    (hlow : s.gov.watch ≠ .low) (hb : holdsBlock s.gov.blocks .throttle = false) :
    updatedDemand s 0 = s.gov.d := by
  have hsum : governorSum s 0 = 0 := by
    unfold governorSum
    rw [he]
    split <;> simp
  have hc : updatedCeiling s = min (conf s).gains.ceiling s.gov.cIntake := by
    rw [updatedCeiling, ceilingFor, hb, if_neg Bool.false_ne_true, rampedIntake, if_neg hlow]
  have hd := updatedDemand_eq s 0
  rw [governorIncrement_eq, hsum, show roundedDiv 0 256 = 0 from rfl, hc] at hd
  omega

/-- Settles O46. -/
theorem fallbackIsWithoutAStep : Obligations.FallbackIsWithoutAStep := by
  unfold Obligations.FallbackIsWithoutAStep
  refine ⟨?_, ?_⟩
  · intro s pd hg t n
    have hfall := fallbackCheck_eq true s
    rw [if_pos ⟨rfl, hg⟩] at hfall
    dsimp only at hfall
    cases hm : pumping s.gov.mode with
    | false =>
      have ht : t = fallbackCheck true s := govTakesDischarge_idle hm
      rw [ht, hfall]
      exact ⟨rfl, rfl, rfl, rfl, by simp [n], fun _ => rfl, fun h => Bool.noConfusion h⟩
    | true =>
      have ht : t = governorUpdate pd (fallbackCheck true s) := govTakesDischarge_pumping hm
      have hgov := governorUpdate_gov pd (fallbackCheck true s)
      have hhand := governorUpdate_hand pd (fallbackCheck true s)
      rw [← ht] at hgov hhand
      rw [hfall] at hgov hhand
      refine ⟨by rw [hgov], by rw [hgov], by rw [hgov], by rw [hgov], ?_,
        fun h => Bool.noConfusion h, fun _ hlo hhi hlow hceiling hintake hb => ?_⟩
      · rw [hhand, List.append_assoc]
        rfl
      · obtain ⟨x, hx⟩ : ∃ x : State, x = { s with
            gov := { s.gov with faultMark := true, governing := .speed, sn := n, ePrev := 0 }
            hand := s.hand ++ [notice s .gov .governor 0 (wordOfInt n) .subscribers] } := ⟨_, rfl⟩
        have herror : governorError x pd = 0 := by
          rw [hx, governorError, clampInt_eq (by decide)]
          dsimp only
          omega
        have hgov : t.gov = { x.gov with
            cIntake := rampedIntake x, c := updatedCeiling x, ePrev := governorError x pd
            d := updatedDemand x (governorError x pd) } := by
          rw [hgov, hx]
        rw [hgov, herror]
        refine ⟨(updatedDemand_of_no_error ?_ ?_ ?_ ?_ ?_).trans ?_, rfl⟩ <;> rw [hx]
        · exact hceiling
        · exact hintake
        · exact hlow
        · exact hb
  · intro s pd faulted t
    refine ⟨?_, fun hnone hm => ?_⟩
    · have hmark := (fallbackCheck_keeps faulted s).2.2.2.2.2.1
      cases hm : pumping s.gov.mode with
      | false => exact (congrArg (fun x => x.gov.faultMark) (govTakesDischarge_idle hm)).trans hmark
      | true =>
        have ht : t = governorUpdate pd (fallbackCheck faulted s) := govTakesDischarge_pumping hm
        rw [ht, governorUpdate_gov]
        exact hmark
    · exact (govTakesDischarge_idle hm).trans (fallbackCheck_of_none hnone)

end Sys2Proof.Machine
end

section
/-! SELECT_SUPPLY, the intake watch, and GOV at a change of mode and of supply. -/

namespace Sys2Proof.Machine

/-! ### The supply -/

section Supply

variable (s : State)

theorem endFill_supply (why : FillEnding) (n : Nat) :
    (endFill why n s).tnk.supply = s.tnk.supply := by
  unfold endFill
  split <;> rfl

theorem suspendStall_supply : (suspendStall s).tnk.supply = s.tnk.supply := by
  unfold suspendStall
  repeat' split
  all_goals rfl

theorem tnkTakesLevel_supply (n : Nat) (v : Int) (faulted : Bool) :
    (tnkTakesLevel n v faulted s).tnk.supply = s.tnk.supply := by
  have htank0 : ∀ s : State, (recomputeTank0 s).tnk.supply = s.tnk.supply := fun s => by
    obtain ⟨m, heq, hm⟩ := recomputeTank0_eq s
    rw [heq, checkFill_eq, hm]
  have htank1 : ∀ s : State, (recomputeTank1 s).tnk.supply = s.tnk.supply := fun s => by
    rw [recomputeTank1, handTank_eq]
    cases tank1Level s.tnk.second <;> rfl
  unfold tnkTakesLevel
  dsimp only
  split
  · exact htank0 _
  · exact htank0 _
  · exact htank0 _
  · exact htank1 _
  · rfl

/-- No hand-over changes the supply (R101). -/
theorem deliver_supply (h : Handover) : (deliver h s).tnk.supply = s.tnk.supply := by
  cases h with
  | levelToTnk n v faulted => exact tnkTakesLevel_supply s n v faulted
  | modeToTnk m =>
    rw [deliver, tnkTakesMode]
    split
    · exact suspendStall_supply _
    · exact endFill_supply _ _ _
  | blocksToTnk b =>
    rw [deliver, tnkTakesBlocks]
    split
    · exact endFill_supply _ _ _
    · rfl
  | _ => exact congrArg TnkUnit.supply ((sameBut_deliver _ s).tnk (by simp [path]))

theorem takeHandovers_supply (w : When) : (takeHandovers w s).tnk.supply = s.tnk.supply :=
  takeHandovers_induct (fun t => t.tnk.supply = s.tnk.supply)
    (fun _ _ _ h _ _ => (deliver_supply _ _).trans h) w s rfl

theorem pass_supply (dt : Nat) : (pass dt s).tnk.supply = s.tnk.supply :=
  pass_induct (fun t => t.tnk.supply = s.tnk.supply)
    (fun _ _ h => (congrArg TnkUnit.supply (advance_tnk _ _)).trans h)
    (fun _ _ _ h _ _ => (deliver_supply _ _).trans h) dt s rfl

theorem changeSupply_supply (x : Supply) : (changeSupply x s).tnk.supply = x := by
  by_cases h : x = s.tnk.supply
  · rw [changeSupply, if_pos h, h]
  · rw [changeSupply_eq h]

theorem still_changeSupply (x : Supply) : still (changeSupply x s) = still s := by
  by_cases h : x = s.tnk.supply
  · rw [changeSupply, if_pos h]
  · rw [changeSupply_eq h]
    rfl

theorem still_withLinks (l : PerPort Link) :
    still { s with links := l } = { still s with links := l } := rfl

variable {s}

theorem tnkSound_pass (dt : Nat) (h : TnkSound s) : TnkSound (pass dt s) :=
  pass_induct TnkSound
    (fun _ _ h => h.of_eq (advance_tnk _ _) (congrArg (·.tank0.full) (conf_advance _ _)))
    (fun _ _ _ h _ _ => tnkSound_deliver _ h) dt s h

theorem supplyOfCode_none_iff (n : Nat) : supplyOfCode n = none ↔ 1 < n := by
  match n with
  | 0 | 1 => simp [supplyOfCode]
  | n + 2 => simp [supplyOfCode]

theorem decideSelectSupply_taken {p : Port} {arg : Word} {x : Supply}
    (hright : portHolds s p .tank = true) (hx : supplyOfCode arg.toNat = some x) :
    decideSelectSupply p [arg] s = (changeSupply x s, .ok, []) := by
  unfold decideSelectSupply
  rw [if_neg (by simp [hright]), show argAt [arg] 0 = arg.toNat from rfl, hx]

theorem decideSelectSupply_refused {p : Port} {arg : Word} {r : Result}
    (h : (portHolds s p .tank = false ∧ r = .noRight) ∨
      (portHolds s p .tank = true ∧ 1 < arg.toNat ∧ r = .badArgument)) :
    decideSelectSupply p [arg] s = (s, r, []) := by
  unfold decideSelectSupply
  rcases h with ⟨hright, rfl⟩ | ⟨hright, harg, rfl⟩
  · exact if_pos (by simp [hright])
  · rw [if_neg (by simp [hright]), show argAt [arg] 0 = arg.toNat from rfl,
      (supplyOfCode_none_iff _).mpr harg]
    rfl

/-- R108: where the check is suspended as supply and mode say, it stands. -/
theorem suspendStall_stands {f : Fill} (hf : s.tnk.fill = some f)
    (h : f.suspended = stallSuspended s.tnk.supply s.tnk.mode) : suspendStall s = s := by
  unfold suspendStall
  rw [hf]
  dsimp only
  rw [h]
  cases stallSuspended s.tnk.supply s.tnk.mode <;> rfl

theorem suspendStall_suspends {f : Fill} (hf : s.tnk.fill = some f) (h : f.suspended = false)
    (hs : stallSuspended s.tnk.supply s.tnk.mode = true) :
    suspendStall s = { s with tnk := { s.tnk with
      fill := some { f with suspended := true, stall := none } } } := by
  unfold suspendStall
  rw [hf]
  dsimp only
  rw [h, hs]

theorem suspendStall_resumes {f : Fill} (hf : s.tnk.fill = some f) (h : f.suspended = true)
    (hs : stallSuspended s.tnk.supply s.tnk.mode = false) :
    suspendStall s = { s with tnk := { s.tnk with
      fill := some { f with
        suspended := false, riseLevel := s.tnk.tank0.lf.getD 0, riseTime := s.timeBase
        stall := some ⟨s.timeBase, (conf s).fillItems.stallSec * 1000⟩ } } } := by
  unfold suspendStall
  rw [hf]
  dsimp only
  rw [h, hs]
  rfl

/-- R108: what a change of supply makes of an open fill. -/
theorem suspendStall_fill (x : Supply) :
    let fill := (suspendStall { s with tnk := { s.tnk with supply := x } }).tnk.fill
    let suspended := x == .tank && s.tnk.mode == .pump
    (s.tnk.fill = none → fill = none) ∧
    ∀ f, s.tnk.fill = some f →
      (f.suspended = suspended → fill = some f) ∧
      (f.suspended = false → suspended = true →
        fill = some { f with suspended := true, stall := none }) ∧
      (f.suspended = true → suspended = false →
        fill = some { f with
          suspended := false, riseLevel := s.tnk.tank0.lf.getD 0, riseTime := s.timeBase
          stall := some ⟨s.timeBase, (conf s).fillItems.stallSec * 1000⟩ }) := by
  intro fill suspended
  let changed : State := { s with tnk := { s.tnk with supply := x } }
  refine ⟨fun hnone => ?_, fun f hf => ⟨fun h => ?_, fun h hs => ?_, fun h hs => ?_⟩⟩
  · simp [fill, suspendStall, hnone]
  · exact (congrArg (·.tnk.fill) (suspendStall_stands (s := changed) hf h)).trans hf
  · exact congrArg (·.tnk.fill) (suspendStall_suspends (s := changed) hf h hs)
  · exact congrArg (·.tnk.fill) (suspendStall_resumes (s := changed) hf h hs)

end Supply

/-- R101: SELECT_SUPPLY taken, whatever is under way. -/
theorem selectSupply_gives (w : When) (p : Port) (s : State) {arg : Word} {x : Supply}
    (hp : s.phase = .running) (ha : askedOf s p .selectSupply = some [arg])
    (hright : portHolds s p .tank = true) (hx : supplyOfCode arg.toNat = some x) :
    exec (.selectSupply w p) s = .next (takeHandovers w { changeSupply x (pass w.dt s) with
      links := answered s p ⟨.selectSupply, .ok, []⟩ }) := by
  have hstill := still_pass w.dt s
  have hlinks : (pass w.dt s).links = s.links := (links_of_still hstill).trans (advance_links _ _)
  have hrun : (pass w.dt s).phase = .running :=
    (congrArg Still.phase hstill).trans ((advance_phase _ _).trans hp)
  have hd := decideSelectSupply_taken (s := pass w.dt s) (p := p) (arg := arg)
    (by rw [portHolds_of_still hstill, portHolds_advance]; exact hright) hx
  rw [exec_next_eq]
  dsimp only [whenOf, effectOf]
  rw [whenRunning_running _ hrun, serve_asked _ (by rw [askedOf, hlinks]; exact ha), hd,
    fixAnswer_eq, answered, links_of_still (still_changeSupply _ _), hlinks, answered]

/-! ### The intake watch -/

section Intake

variable {s : State} {v : Int} {faulted : Bool}

theorem govTakesIntake_off (hw : s.gov.watch = .off) :
    govTakesIntake v faulted s = { s with gov := { s.gov with lastIntake := v } } := by
  unfold govTakesIntake
  dsimp only
  split
  · rfl
  all_goals next h => cases hw.symm.trans h

theorem govTakesIntake_watching (hw : s.gov.watch = .watching) :
    govTakesIntake v faulted s =
      if faulted then leaveRamp .suspended (postGovernor 3 v { s with
        gov := { s.gov with lastIntake := v } })
      else if v < (conf s).govDefaults.floor then
        postGovernor 1 v { s with gov := { s.gov with lastIntake := v, watch := .low } }
      else { s with gov := { s.gov with lastIntake := v } } := by
  unfold govTakesIntake
  dsimp only
  split
  case h_2 => rfl
  all_goals next h => cases hw.symm.trans h

theorem govTakesIntake_low (hw : s.gov.watch = .low) :
    govTakesIntake v faulted s =
      if faulted then leaveRamp .suspended (postGovernor 3 v { s with
        gov := { s.gov with lastIntake := v } })
      else if v < (conf s).govDefaults.floor + (conf s).govDefaults.hysteresis then
        { s with gov := { s.gov with lastIntake := v } }
      else leaveRamp .watching (postGovernor 2 v { s with
        gov := { s.gov with lastIntake := v } }) := by
  unfold govTakesIntake
  dsimp only
  split
  case h_3 => rfl
  all_goals next h => cases hw.symm.trans h

theorem govTakesIntake_suspended (hw : s.gov.watch = .suspended) :
    govTakesIntake v faulted s =
      if faulted then { s with gov := { s.gov with lastIntake := v } }
      else if v < (conf s).govDefaults.floor then
        postGovernor 1 v { s with gov := { s.gov with lastIntake := v, watch := .low } }
      else postGovernor 2 v { s with
        gov := { s.gov with lastIntake := v, watch := .watching } } := by
  unfold govTakesIntake
  dsimp only
  split
  case h_4 => rfl
  all_goals next h => cases hw.symm.trans h

end Intake

/-- Settles O47: the request by the decision on it, the watch and the two changes by GOV's cases. -/
theorem selectSupplyAndTheIntakeWatch : Obligations.SelectSupplyAndTheIntakeWatch := by
  unfold Obligations.SelectSupplyAndTheIntakeWatch
  refine ⟨?_, ?_, ?_⟩
  · intro w p s arg hp ha u
    refine ⟨fun x hright hx => ?_, fun r hs h => ?_⟩
    · refine ⟨_, selectSupply_gives w p s hp ha hright hx, ?_, ?_, fun hsame hs => ?_,
        fun hsound => ?_, fun hne hs => ?_⟩
      · rw [still_takeHandovers, still_withLinks, still_changeSupply, still_pass]
      · rw [takeHandovers_supply]
        exact changeSupply_supply _ _
      · have hx : x = u.tnk.supply := hsame.trans (congrArg TnkUnit.supply (advance_tnk _ _)).symm
        rw [pass_of_hand_nil _ hs, changeSupply, if_pos hx]
        exact takeHandovers_of_hand_nil w ((advance_hand _ _).trans hs)
      · have hpass : TnkSound (pass w.dt s) := tnkSound_pass w.dt hsound
        have hkept : TnkSound (takeHandovers w { changeSupply x (pass w.dt s) with
            links := answered s p ⟨.selectSupply, .ok, []⟩ }) :=
          takeHandovers_induct TnkSound (fun _ _ _ h _ _ => tnkSound_deliver _ h) w _
            (tnkSound_changeSupply x hpass)
        have hsupply := (takeHandovers_supply { changeSupply x (pass w.dt s) with
          links := answered s p ⟨.selectSupply, .ok, []⟩ } w).trans (changeSupply_supply _ x)
        rw [hkept.1, hsupply]
      · have hfill := suspendStall_fill x (s := u)
        rw [conf_advance, advance_tnk] at hfill
        refine ⟨_, ?_, hfill⟩
        rw [pass_of_hand_nil _ hs, changeSupply_eq (by rw [advance_tnk]; exact hne), advance_hand,
          hs, advance_tnk]
        rfl
    · have hd := decideSelectSupply_refused (s := u) (p := p) (arg := arg) (r := r)
        (by rw [portHolds_advance]; exact h)
      exact exec_answered (c := .selectSupply w p) (w := w) rfl rfl hp hs ha hd
  · intro v faulted s t floor clear seen ceiling posted unmoved low freed
    refine ⟨fun hw => govTakesIntake_off hw, fun hw => ?_, fun hw => ?_, fun hw => ?_⟩
    · have ht : t = _ := govTakesIntake_watching hw
      refine ⟨fun hf => ?_, fun hf hv => ?_, fun hf hv => ?_⟩
      · have h := leaveRamp_posted .suspended 3 v s seen rfl
        rw [hf, if_pos rfl] at ht
        rw [← ht] at h
        exact h
      · exact ht.trans ((if_neg (by simp [hf])).trans (if_pos hv))
      · exact ht.trans ((if_neg (by simp [hf])).trans (if_neg (Int.not_lt.mpr hv)))
    · have ht : t = _ := govTakesIntake_low hw
      refine ⟨fun hf => ?_, fun hf hv => ?_, fun hf hv => ?_⟩
      · have h := leaveRamp_posted .suspended 3 v s seen rfl
        rw [hf, if_pos rfl] at ht
        rw [← ht] at h
        exact h
      · exact ht.trans ((if_neg (by simp [hf])).trans (if_pos hv))
      · have h := leaveRamp_posted .watching 2 v s seen rfl
        have ht := ht.trans ((if_neg (by simp [hf])).trans (if_neg (Int.not_lt.mpr hv)))
        rw [← ht] at h
        exact h
    · have ht : t = _ := govTakesIntake_suspended hw
      refine ⟨fun hf => ?_, fun hf hv => ?_, fun hf hv => ?_⟩
      · exact ht.trans (if_pos hf)
      · exact ht.trans ((if_neg (by simp [hf])).trans (if_pos hv))
      · exact ht.trans ((if_neg (by simp [hf])).trans (if_neg (Int.not_lt.mpr hv)))
  · intro s cCfg ceiling clear on
    refine ⟨?_, ?_⟩
    · intro m t entered
      refine ⟨fun hm hpump => ?_, fun hm hn => govTakesMode_left m s hm hn, fun h1 h2 => ?_⟩
      · subst hpump
        exact govTakesMode_entered s hm
      · have h3 : ¬(pumping s.gov.mode && !pumping m) = true := by
          rw [Bool.and_eq_true, Bool.not_eq_true']
          exact h2
        exact (if_neg h1).trans (if_neg h3)
    · intro x t seen protected_
      have ht : t = _ := govTakesSupply_eq x s
      have hprot : (pumping s.gov.mode && x == .external) = true ↔ protected_ := by
        rw [Bool.and_eq_true, beq_iff_eq]
      refine ⟨fun h => ht.trans (if_pos (hprot.mpr h)), fun h hoff => ?_, fun h hon => ?_⟩
      · exact ht.trans ((if_neg fun hn => h (hprot.mp hn)).trans (if_pos hoff))
      · have ht := ht.trans ((if_neg fun hn => h (hprot.mp hn)).trans (if_neg hon))
        have hg := watchOff_governed s seen rfl
        rw [← ht] at hg
        exact hg

end Sys2Proof.Machine
end

section
/-! FILL_START, FILL_STOP, the fill's timers, and TNK at a level, a mode and a block set. -/

namespace Sys2Proof.Machine

/-! ### FILL_START -/

section FillStart

variable {s : State} {p : Port} {arg : Word}

/-- R104: TNK's record with a fill opened now for the target and with the level given. -/
def filling (s : State) (p : Port) (target : Nat) (lf : Int) : TnkUnit :=
  { s.tnk with
    fillValve := true
    fill := some
      { requester := p, target := target, start := s.timeBase, riseLevel := lf
        riseTime := s.timeBase
        timeout := ⟨s.timeBase, (conf s).fillItems.timeoutMin * 60000⟩
        stall := if stallSuspended s.tnk.supply s.tnk.mode then none
          else some ⟨s.timeBase, (conf s).fillItems.stallSec * 1000⟩
        suspended := stallSuspended s.tnk.supply s.tnk.mode } }

theorem decideFillStart_taken {v lf : Int} (hv : s.tnk.tank0.v = some v)
    (hlf : s.tnk.tank0.lf = some lf) (hright : portHolds s p .tank = true)
    (hfree : s.tnk.fill = none) (hopen : holdsBlock s.tnk.blocks .fill = false)
    (hmode : s.tnk.mode = .parked ∨ s.tnk.mode = .pump)
    (hknown : s.tnk.tank0.state ≠ .unknown ∧ s.tnk.tank0.state ≠ .full)
    (hlow : v < (min arg.toNat (conf s).tank0.full : Nat)) :
    decideFillStart p [arg] s =
      ({ s with
          tnk := filling s p (min arg.toNat (conf s).tank0.full) lf
          hand := s.hand ++ [.arrival .tnk .fillActive (some 1)] },
        if (conf s).tank0.full < arg.toNat then .clamped else .taken,
        [wordOfNat (min arg.toNat (conf s).tank0.full), wordOfInt v]) := by
  unfold decideFillStart
  dsimp only
  rw [show argAt [arg] 0 = arg.toNat from rfl, if_neg (by simp [hright]), if_neg (by simp [hfree]),
    if_neg (by simp [hopen]), if_neg (fun h => hmode.elim h.1 h.2),
    if_neg (fun h => h.elim hknown.1 hknown.2), hv, Option.getD_some,
    if_neg (Int.not_le.mpr hlow)]
  simp only [openFill, newFill, filling, hlf]
  rfl

/-- R103: the checks of FILL_START, in their order. -/
theorem decideFillStart_refused {r : Result}
    (h : (¬portHolds s p .tank = true ∧ r = .noRight) ∨
      (portHolds s p .tank = true ∧ ¬s.tnk.fill = none ∧ r = .busy) ∨
      (portHolds s p .tank = true ∧ s.tnk.fill = none ∧ ¬holdsBlock s.tnk.blocks .fill = false ∧
        r = .blocked) ∨
      (portHolds s p .tank = true ∧ s.tnk.fill = none ∧ holdsBlock s.tnk.blocks .fill = false ∧
        (¬(s.tnk.mode = .parked ∨ s.tnk.mode = .pump) ∨
          ¬(s.tnk.tank0.state ≠ .unknown ∧ s.tnk.tank0.state ≠ .full) ∨
          ∃ v : Int, s.tnk.tank0.v = some v ∧ (min arg.toNat (conf s).tank0.full : Nat) ≤ v) ∧
        r = .condition)) :
    decideFillStart p [arg] s = (s, r, []) := by
  unfold decideFillStart
  dsimp only
  rw [show argAt [arg] 0 = arg.toNat from rfl]
  rcases h with ⟨hright, rfl⟩ | ⟨hright, hfree, rfl⟩ | ⟨hright, hfree, hopen, rfl⟩ |
    ⟨hright, hfree, hopen, hcond, rfl⟩
  · exact if_pos (by simp [hright])
  · exact (if_neg (by simp [hright])).trans (if_pos (Option.isSome_iff_ne_none.mpr hfree))
  · exact (if_neg (by simp [hright])).trans ((if_neg (by simp [hfree])).trans
      (if_pos (Bool.not_eq_false _ ▸ hopen)))
  · rw [if_neg (by simp [hright]), if_neg (by simp [hfree]), if_neg (by simp [hopen])]
    by_cases hmode : s.tnk.mode = .parked ∨ s.tnk.mode = .pump
    · rw [if_neg (fun h => hmode.elim h.1 h.2)]
      by_cases hknown : s.tnk.tank0.state ≠ .unknown ∧ s.tnk.tank0.state ≠ .full
      · rw [if_neg (fun h => h.elim hknown.1 hknown.2)]
        rcases hcond with hn | hn | ⟨v, hv, hle⟩
        · exact absurd hmode hn
        · exact absurd hknown hn
        · rw [hv]
          exact if_pos hle
      · exact if_pos (by rwa [ne_eq, ne_eq, ← not_or, not_not] at hknown)
    · exact if_pos (not_or.mp hmode)

end FillStart

/-! ### An open fill while a step settles -/

/-- TNK's record is `x` but for the block set and TANK_VALVE, and no row can bring FILL about. -/
structure Filling (x : TnkUnit) (s : State) : Prop where
  ensuing : ∀ h ∈ s.hand, ensues ⟨false, true, false⟩ h = true
  unblocked : Unblocked s
  tnk : s.tnk = { x with tankValve := s.tnk.tankValve, blocks := s.tnk.blocks }

theorem Filling.withHand {x : TnkUnit} {s : State} (h : Filling x s) {rest : List Handover}
    (hrest : ∀ g ∈ rest, g ∈ s.hand) : Filling x { s with hand := rest } where
  ensuing g hg := h.ensuing g (hrest g hg)
  unblocked := h.unblocked.of_eq rfl rfl
  tnk := h.tnk

theorem Filling.opened {s : State} (h : Unblocked s) (x : TnkUnit) (links : PerPort Link) :
    Filling x { s with
      tnk := x, links := links, hand := [.arrival .tnk .fillActive (some 1)] } where
  ensuing g hg := by
    rw [List.mem_singleton.mp hg]
    rfl
  unblocked := h.of_eq rfl rfl
  tnk := rfl

/-- A block set without FILL changes TNK's copy and TANK_VALVE alone. -/
theorem tnkTakesBlocks_free {b : BlockSet} (hb : holdsBlock b .fill = false) (s : State) :
    tnkTakesBlocks b s = { s with tnk := { s.tnk with
      blocks := b, tankValve := tankValveFor s.tnk.supply s.tnk.mode b } } :=
  if_neg (by simp [hb])

theorem Filling.deliver {x : TnkUnit} {s : State} (h : Filling x s) {g : Handover}
    (hg : ensues ⟨false, true, false⟩ g = true) : Filling x (deliver g s) := by
  have hfreeOf : ∀ b, FreeOfBlocks b = true →
      holdsBlock b .pto = false ∧ holdsBlock b .fill = false := fun b hb => by
    simpa only [FreeOfBlocks, Bool.and_eq_true, Bool.not_eq_true'] using hb
  refine ⟨(ensuing_deliver hg (fun he => ?_) (fun _ => h.unblocked) fun b he => ?_).all h.ensuing,
    unblocked_deliver h.unblocked hg, ?_⟩
  · subst he
    cases hg
  · subst he
    exact .inl (hfreeOf b hg).1
  · cases g with
    | blocksToTnk b =>
      rw [Machine.deliver, tnkTakesBlocks_free (hfreeOf b hg).2]
      exact congrArg (fun y : TnkUnit => { y with
        tankValve := tankValveFor s.tnk.supply s.tnk.mode b, blocks := b }) h.tnk
    | modeToTnk _ => cases hg
    | levelToTnk _ _ _ => cases hg
    | _ =>
      rw [(sameBut_deliver _ s).tnk (by simp [path])]
      exact h.tnk

theorem Filling.takeHandovers {x : TnkUnit} {s : State} (h : Filling x s) (w : When) :
    Filling x (takeHandovers w s) :=
  takeHandovers_induct (Filling x)
    (fun _ _ _ h hg hrest => (h.withHand hrest).deliver (h.ensuing _ hg)) w s h

/-- Settles O48: the checks in order; the open fill is kept by all that its opening causes. -/
theorem fillStartOpensAFill : Obligations.FillStartOpensAFill := by
  unfold Obligations.FillStartOpensAFill
  intro w p s arg hp hs ha u full target suspended held free open_ inMode known links fill
  refine ⟨fun v lf hv hlf hright hfree hopen hmode hknown hlow => ?_, fun r h => ?_⟩
  · have hd := decideFillStart_taken (s := u) (p := p) (arg := arg) (v := v) (lf := lf)
      (by rw [advance_tnk]; exact hv) (by rw [advance_tnk]; exact hlf)
      (by rw [portHolds_advance]; exact hright) (by rw [advance_tnk]; exact hfree)
      (by rw [advance_tnk]; exact hopen) (by rw [advance_tnk]; exact hmode)
      (by rw [advance_tnk]; exact hknown) (by rw [conf_advance]; exact hlow)
    have hexec := exec_request_links (c := .fillStart w p) rfl rfl hp hs ha hd (advance_links _ _)
    have htnk : filling u p target lf =
        { s.tnk with fillValve := true, fill := some (fill lf) } := by
      simp only [filling, u, advance_tnk, conf_advance]
      rfl
    rw [conf_advance, htnk, advance_hand, hs] at hexec
    refine ⟨hexec, fun hun => ⟨_, hexec, still_takeHandovers _ _, ?_⟩⟩
    have hu : Unblocked u := hun.of_eq (advance_lkt _ _) (advance_cfg _ _)
    exact ((Filling.opened hu _ _).takeHandovers w).tnk
  · have hd := decideFillStart_refused (s := u) (p := p) (arg := arg) (r := r) (by
      rw [portHolds_advance, advance_tnk, conf_advance]
      exact h)
    exact exec_answered (c := .fillStart w p) (w := w) rfl rfl hp hs ha hd

end Sys2Proof.Machine
end

section
/-! How a fill ends: FILL_STOP, its two timers, its checks, and TNK at a mode and a block set. -/

namespace Sys2Proof.Machine

/-! ### What a step hands on that no conversion begins -/

/-- All that a change of the mode, of the block set or of a fill can bring about. -/
def AllEnsue (s : State) : Prop := s.hand.all (ensues ⟨true, false, true⟩) = true

section Ensuing

variable {s : State} {f : Fill}

theorem allEnsue_spinDownOutcome {why : Reason} {r : Option OpenRequest} (h : AllEnsue s) :
    AllEnsue (spinDownOutcome s why r) := by
  have hspin : AllEnsue (spinning s why r) := by
    unfold AllEnsue spinning
    rw [List.all_append, h, Bool.true_and, List.all_cons, ensues_modeNotice, Bool.true_and]
    split
    · rfl
    · exact all_modeHandovers _
  rw [spinDownOutcome_eq]
  split
  · exact all_releaseOutcome rfl hspin rfl rfl
  · exact hspin

theorem allEnsue_actOnPtoBlock (h : AllEnsue s) : AllEnsue (actOnPtoBlock s) := by
  rw [actOnPtoBlock_eq]
  split
  · exact h
  split
  · exact all_releaseOutcome rfl h rfl (all_outcomeNotices _ _ _ _)
  split
  · exact allEnsue_spinDownOutcome h
  · exact h

theorem allEnsue_seqTakesRelease (h : AllEnsue s) : AllEnsue (seqTakesRelease s) := by
  unfold seqTakesRelease
  split
  · next hm =>
    rw [completeRelease_eq (by rw [hm.1]; rfl)]
    unfold AllEnsue at h ⊢
    simp only [List.all_append, List.all_cons, h, ensues_modeNotice, all_modeHandovers,
      all_outcomeNotices, Bool.and_self]
  · exact h

theorem allEnsue_deliver {x : Handover} (h : AllEnsue s)
    (hx : ensues ⟨true, false, true⟩ x = true) :
    AllEnsue (deliver x s) := by
  by_cases hrelease : x = .releaseToSeq
  · subst hrelease
    exact allEnsue_seqTakesRelease h
  by_cases hblocks : ∃ b, x = .blocksToSeq b
  · obtain ⟨b, rfl⟩ := hblocks
    exact allEnsue_actOnPtoBlock h
  · exact List.all_eq_true.mpr ((ensuing_deliver hx hrelease (fun hf => Bool.noConfusion hf)
      fun b hb => absurd ⟨b, hb⟩ hblocks).all (List.all_eq_true.mp h))

/-! ### TNK with no fill open -/

theorem tnkTakesMode_closed (h : s.tnk.fill = none) (m : Mode) :
    tnkTakesMode m s = { s with tnk := { s.tnk with
      mode := m, tankValve := tankValveFor s.tnk.supply m s.tnk.blocks } } := by
  unfold tnkTakesMode suspendStall endFill
  simp only [commandTankValve, h]
  exact ite_self _

theorem tnkTakesBlocks_closed (h : s.tnk.fill = none) (b : BlockSet) :
    tnkTakesBlocks b s = { s with tnk := { s.tnk with
      blocks := b, tankValve := tankValveFor s.tnk.supply s.tnk.mode b } } := by
  unfold tnkTakesBlocks endFill
  simp only [commandTankValve, h]
  exact ite_self _

/-- No fill is open, the tanks and the supply are as in `x`, and no hand-over under way brings a
level. -/
structure FillEnded (x : TnkUnit) (s : State) : Prop where
  ensue : AllEnsue s
  closed : s.tnk.fill = none ∧ s.tnk.fillValve = false
  kept : s.tnk.tank0 = x.tank0 ∧ s.tnk.tank1 = x.tank1 ∧ s.tnk.supply = x.supply

theorem FillEnded.deliver {x : TnkUnit} (h : FillEnded x s) {g : Handover}
    (hg : ensues ⟨true, false, true⟩ g = true) : FillEnded x (deliver g s) := by
  have hensue := allEnsue_deliver h.ensue hg
  suffices hrecord : (Machine.deliver g s).tnk.fill = none ∧
      (Machine.deliver g s).tnk.fillValve = false ∧
      (Machine.deliver g s).tnk.tank0 = x.tank0 ∧ (Machine.deliver g s).tnk.tank1 = x.tank1 ∧
      (Machine.deliver g s).tnk.supply = x.supply from
    ⟨hensue, ⟨hrecord.1, hrecord.2.1⟩, hrecord.2.2⟩
  obtain ⟨-, ⟨hfill, hvalve⟩, hkept⟩ := h
  cases g with
  | modeToTnk m =>
    rw [Machine.deliver, tnkTakesMode_closed hfill]
    exact ⟨hfill, hvalve, hkept⟩
  | blocksToTnk b =>
    rw [Machine.deliver, tnkTakesBlocks_closed hfill]
    exact ⟨hfill, hvalve, hkept⟩
  | levelToTnk _ _ _ => cases hg
  | _ =>
    rw [(sameBut_deliver _ s).tnk (by simp [path])]
    exact ⟨hfill, hvalve, hkept⟩

theorem FillEnded.takeHandovers {x : TnkUnit} (h : FillEnded x s) (w : When) :
    FillEnded x (takeHandovers w s) :=
  takeHandovers_induct (FillEnded x)
    (fun h' rest s' hs hg hrest => by
      have hall := List.all_eq_true.mp hs.ensue
      have hrested : FillEnded x { s' with hand := rest } :=
        ⟨List.all_eq_true.mpr fun g hgr => hall g (hrest g hgr), hs.closed, hs.kept⟩
      exact hrested.deliver (hall h' hg)) w s h

/-- R109: the state in which the fill `f` has ended. -/
def fillEndedState (s : State) (f : Fill) (why : FillEnding) (stopper : Nat) : State :=
  { s with
    tnk := { s.tnk with fill := none, fillValve := false }
    hand := s.hand ++ endingHandovers s f why stopper }

theorem fillEnded_fillEndedState (h : s.hand = []) (why : FillEnding) (stopper : Nat)
    (links : PerPort Link) :
    FillEnded s.tnk { fillEndedState s f why stopper with links := links } := by
  refine ⟨?_, ⟨rfl, rfl⟩, rfl, rfl, rfl⟩
  unfold AllEnsue fillEndedState
  dsimp only
  rw [h]
  rfl

/-! ### The checks of a fill at a recomputation of tank 0 -/

theorem checkFill_tank0 (m : State) : (checkFill m).tnk.tank0 = m.tnk.tank0 := by rw [checkFill_eq]

theorem checkFill_unknown {m : State} (hf : m.tnk.fill = some f)
    (h : m.tnk.tank0.state = .unknown) :
    checkFill m = fillEndedState m f .unknown 0 := by
  unfold checkFill
  rw [hf]
  dsimp only
  rw [if_pos h, endFill_eq hf _ (by decide)]
  rfl

theorem checkFill_full {m : State} (hf : m.tnk.fill = some f) (h : m.tnk.tank0.state = .full) :
    checkFill m = fillEndedState m f .full 0 := by
  unfold checkFill
  rw [hf]
  dsimp only
  rw [if_neg (by simp [h]), if_pos h, endFill_eq hf _ (by decide)]
  rfl

theorem checkFill_reached {m : State} (hf : m.tnk.fill = some f)
    (hu : m.tnk.tank0.state ≠ .unknown) (hfull : m.tnk.tank0.state ≠ .full)
    (h : (f.target : Int) ≤ m.tnk.tank0.v.getD 0) :
    checkFill m = fillEndedState m f .reached 0 := by
  unfold checkFill
  rw [hf]
  dsimp only
  rw [if_neg hu, if_neg hfull, if_pos h, endFill_eq hf _ (by decide)]
  rfl

/-- R107: a fill that no check ends. -/
theorem checkFill_goes_on {m : State} (hf : m.tnk.fill = some f)
    (hu : m.tnk.tank0.state ≠ .unknown) (hfull : m.tnk.tank0.state ≠ .full)
    (h : ¬(f.target : Int) ≤ m.tnk.tank0.v.getD 0) :
    checkFill m =
      if f.suspended = false ∧ f.riseLevel + (conf m).fillItems.minRise ≤ m.tnk.tank0.lf.getD 0 then
        { m with tnk := { m.tnk with fill := some (restartStall m f) } }
      else m := by
  unfold checkFill
  rw [hf]
  dsimp only
  rw [if_neg hu, if_neg hfull, if_neg h]
  unfold stallCheck
  rw [hf]
  simp only [Bool.and_eq_true, Bool.not_eq_true', decide_eq_true_eq]

/-- R106, R107: what a recomputation of tank 0 does to an open fill and what it hands on. -/
theorem recomputeTank0_fill (hf : s.tnk.fill = some f) :
    let t := recomputeTank0 s
    let state := t.tnk.tank0.state
    let risen := f.suspended = false ∧
      f.riseLevel + (conf s).fillItems.minRise ≤ t.tnk.tank0.lf.getD 0
    let ends (why : FillEnding) : Prop :=
      t.tnk.fill = none ∧ t.tnk.fillValve = false ∧
      t.hand = s.hand ++ tank0Handovers s t ++ endingHandovers t f why 0
    let reached := (f.target : Int) ≤ t.tnk.tank0.v.getD 0
    (state = .unknown → ends .unknown) ∧ (state = .full → ends .full) ∧
    (state ≠ .unknown → state ≠ .full → reached → ends .reached) ∧
    (state ≠ .unknown → state ≠ .full → ¬reached →
      t.tnk.fillValve = s.tnk.fillValve ∧ t.hand = s.hand ++ tank0Handovers s t ∧
      (risen → t.tnk.fill = some { f with
        riseLevel := t.tnk.tank0.lf.getD 0, riseTime := s.timeBase
        stall := some ⟨s.timeBase, (conf s).fillItems.stallSec * 1000⟩ }) ∧
      (¬risen → t.tnk.fill = some f)) := by
  obtain ⟨m, ht, hm⟩ := recomputeTank0_eq s
  have hfm : m.tnk.fill = some f := (congrArg (·.tnk.fill) hm).trans hf
  have hhand : m.hand = s.hand ++ tank0Handovers s m := congrArg State.hand hm
  have hvalve : m.tnk.fillValve = s.tnk.fillValve := (congrArg (·.tnk.fillValve) hm).trans rfl
  have hconf : conf m = conf s := conf_of_cfg ((congrArg State.cfg hm).trans rfl)
  have htime : m.timeBase = s.timeBase := (congrArg State.timeBase hm).trans rfl
  have hends : ∀ why, checkFill m = fillEndedState m f why 0 →
      (checkFill m).tnk.fill = none ∧ (checkFill m).tnk.fillValve = false ∧
      (checkFill m).hand = s.hand ++ tank0Handovers s (checkFill m) ++
        endingHandovers (checkFill m) f why 0 := fun why h => by
    rw [h]
    exact ⟨rfl, rfl, congrArg (· ++ _) hhand⟩
  intro t state risen ends reached
  simp only [t, state, risen, ends, reached, ht, checkFill_tank0]
  refine ⟨fun h => hends _ (checkFill_unknown hfm h), fun h => hends _ (checkFill_full hfm h),
    fun hu hfull h => hends _ (checkFill_reached hfm hu hfull h), fun hu hfull h => ?_⟩
  have hgo := checkFill_goes_on hfm hu hfull h
  rw [hconf] at hgo
  split at hgo
  · next hrisen =>
    rw [hgo]
    refine ⟨hvalve, hhand, fun _ => ?_, fun hn => absurd hrisen hn⟩
    simp only [restartStall, startTimer, htime, hconf]
  · next hrisen =>
    rw [hgo]
    exact ⟨hvalve, hhand, fun hr => absurd hr hrisen, fun _ => hfm⟩

end Ensuing

/-- Settles O49: each ending by the checks that lead to it, and what its hand-overs leave. -/
theorem fillsEndByStopAndTimers : Obligations.FillsEndByStopAndTimers := by
  unfold Obligations.FillsEndByStopAndTimers
  refine ⟨?_, ?_, ?_, ?_, ?_⟩
  · intro w p s f hp hs hf u ended ending
    have hu : u.hand = [] := (advance_hand _ _).trans hs
    have hfu : u.tnk.fill = some f := (congrArg TnkUnit.fill (advance_tnk _ _)).trans hf
    have hending : ∀ why n, fillEndedState u f why n = ending why n := fun why n => by
      rw [fillEndedState, hu, advance_tnk]
      rfl
    have hended : ∀ why n links,
        ended (takeHandovers w { ending why n with links := links }) := fun why n links => by
      obtain ⟨-, ⟨hnone, hvalve⟩, hkept⟩ :=
        (hending why n ▸ fillEnded_fillEndedState (f := f) hu why n links).takeHandovers w
      rw [advance_tnk] at hkept
      exact ⟨hnone, hvalve, hkept⟩
    have htimer : ∀ (c : Instr) (due : State → Bool) (why : FillEnding),
        effectOf c = whenRunning (fun s => if due s then endFill why 0 s else s) → whenOf c = w →
        due u = true →
        exec c s = .next (takeHandovers w (ending why 0)) ∧
          ∃ t, exec c s = .next t ∧ still t = still u ∧ ended t := fun c due why hc hw hdue => by
      have hexec := exec_running hc hw hp hs
      rw [if_pos hdue, endFill_eq hfu _ (by decide)] at hexec
      have hend : exec c s = .next (takeHandovers w (ending why 0)) :=
        hexec.trans (congrArg (fun x => Host.Outcome.next (takeHandovers w x)) (hending why 0))
      exact ⟨hend, _, hend, still_takeHandovers _ _, hended why 0 u.links⟩
    refine ⟨fun ha hright => ?_, fun hdue => ?_, fun hdue => ?_⟩
    · have hd : decideFillStop p [] u = (fillEndedState u f .stopped (portCode p), .ok, []) := by
        unfold decideFillStop
        rw [if_neg (by rw [portHolds_advance]; simp [hright]), endFill_eq hfu _ (by
          have := portCode_lt p; omega)]
        rfl
      have hexec := exec_request_links (c := .fillStop w p) rfl rfl hp hs ha hd (advance_links _ _)
      rw [hending] at hexec
      exact ⟨hexec, _, hexec, still_takeHandovers _ _, hended _ _ _⟩
    · exact htimer (.fillTimeoutExpiry w) _ .timedOut rfl rfl (by rw [hfu]; exact hdue)
    · exact htimer (.stallWindowExpiry w) _ .stalled rfl rfl (by rw [hfu]; exact hdue)
  · intro w p s hp hs ha u
    refine ⟨fun hright => ?_, fun hright hnone => ?_⟩
    · have hd : decideFillStop p [] u = (u, .noRight, []) :=
        if_pos (by rw [portHolds_advance]; simp [hright])
      exact exec_answered (c := .fillStop w p) (w := w) rfl rfl hp hs ha hd
    · have hd : decideFillStop p [] u = (u, .ok, []) := by
        unfold decideFillStop
        rw [if_neg (by rw [portHolds_advance]; simp [hright]), endFill, advance_tnk, hnone]
      exact exec_answered (c := .fillStop w p) (w := w) rfl rfl hp hs ha hd
  · intro s f why stopper v hf hv
    rw [endFill_eq hf _ (by have := portCode_lt stopper; omega), endingHandovers, notice, hv]
    rfl
  · intro channel level faulted s f hchannel hf
    rcases hchannel with rfl | rfl | rfl
    · exact recomputeTank0_fill (s := { s with tnk := { s.tnk with front := _ } }) hf
    · exact recomputeTank0_fill (s := { s with tnk := { s.tnk with centre := _ } }) hf
    · exact recomputeTank0_fill (s := { s with tnk := { s.tnk with rear := _ } }) hf
  · intro s valve ending
    refine ⟨?_, ?_⟩
    · intro m t seen suspended
      refine ⟨fun hnone => tnkTakesMode_closed hnone m, fun f hf => ⟨fun h1 h2 => ?_, fun hm => ?_⟩⟩
      · have ht : t = endFill .mode 0 { s with tnk := seen } := if_neg (not_or.mpr ⟨h1, h2⟩)
        exact ht.trans (endFill_eq (s := { s with tnk := seen }) hf _ (by decide : 0 < 16))
      · have ht : t = suspendStall { s with tnk := seen } := if_pos hm
        exact ⟨fun h => ht.trans (suspendStall_stands (s := { s with tnk := seen }) hf h),
          fun h hs => ht.trans (suspendStall_suspends (s := { s with tnk := seen }) hf h hs),
          fun h hs => ht.trans (suspendStall_resumes (s := { s with tnk := seen }) hf h hs)⟩
    · intro b t seen
      refine ⟨fun h => ?_, fun f hf hb => ?_⟩
      · rcases h with hnone | hb
        · exact tnkTakesBlocks_closed hnone b
        · exact tnkTakesBlocks_free hb s
      · have ht : t = endFill .blocked 0 { s with tnk := seen } := if_pos hb
        exact ht.trans (endFill_eq (s := { s with tnk := seen }) hf _ (by decide : 0 < 16))

end Sys2Proof.Machine
end

section
/-! The filter, the strapping tables, and what a level arrival does to the tank records. -/

namespace Sys2Proof.Machine

/-! ### The filter -/

/-- R94: a step towards L of at least 1 mm and never past it. -/
theorem filterStep_towards {k : Int} (hk : k = 1 ∨ k = 8) (lf l : Int) :
    (lf < l → lf < filterStep k lf l ∧ filterStep k lf l ≤ l) ∧
    (l < lf → l ≤ filterStep k lf l ∧ filterStep k lf l < lf) ∧
    (lf = l → filterStep k lf l = l) := by
  have hbounds : ∀ n : Int, (0 ≤ n → 0 ≤ Int.tdiv n 16 ∧ Int.tdiv n 16 ≤ n / 16) ∧
      (n ≤ 0 → Int.tdiv n 16 ≤ 0 ∧ -(-n / 16) ≤ Int.tdiv n 16) := fun n => by
    refine ⟨fun h => ?_, fun h => ?_⟩
    · rw [Int.tdiv_eq_ediv_of_nonneg h]
      omega
    · rw [← Int.neg_neg n, Int.neg_tdiv, Int.tdiv_eq_ediv_of_nonneg (by omega)]
      omega
  obtain ⟨hpos, hneg⟩ := hbounds ((l - lf) * k)
  unfold filterStep
  dsimp only
  generalize Int.tdiv ((l - lf) * k) 16 = step at *
  rcases hk with rfl | rfl
  all_goals
    refine ⟨fun h => ?_, fun h => ?_, fun h => ?_⟩
    · have := hpos (by omega)
      split_ifs <;> omega
    · have := hneg (by omega)
      split_ifs <;> omega
    · have := hpos (by omega)
      split_ifs <;> omega

/-! ### The strapping tables -/

section Strap

/-- Levels and volumes rise strictly from point to point. -/
def Rises : List StrapPoint → Prop
  | q :: q' :: rest => q.level < q'.level ∧ q.volume < q'.volume ∧ Rises (q' :: rest)
  | _ => True

theorem rises_of_strictlyRising : ∀ {table : List StrapPoint},
    strictlyRising (table.map StrapPoint.level) = true →
    strictlyRising (table.map StrapPoint.volume) = true → Rises table
  | [], _, _ => trivial
  | [_], _, _ => trivial
  | q :: q' :: rest, hl, hv => by
    simp only [List.map_cons, strictlyRising, Bool.and_eq_true, decide_eq_true_eq] at hl hv
    exact ⟨hl.1, hv.1, rises_of_strictlyRising hl.2 hv.2⟩

theorem rises_of_strapValid {table : List StrapPoint} (h : strapValid table = true) :
    Rises table := by
  simp only [strapValid, Bool.and_eq_true] at h
  obtain ⟨⟨-, hl⟩, hv⟩ := h
  exact rises_of_strictlyRising hl hv

/-- R96: the volume between two points. -/
def between (q q' : StrapPoint) (lf : Int) : Int :=
  q.volume + Int.tdiv ((lf - q.level) * ((q'.volume : Int) - q.volume)) ((q'.level : Int) - q.level)

variable {q q' : StrapPoint} {rest : List StrapPoint} {lf lf' : Int}

theorem volumeAbove_within (h : lf < q'.level) :
    volumeAbove (q :: q' :: rest) lf = between q q' lf := if_pos h

theorem volumeAbove_beyond (h : q'.level ≤ lf) :
    volumeAbove (q :: q' :: rest) lf = volumeAbove (q' :: rest) lf :=
  if_neg (Int.not_lt.mpr h)

/-- Between two points the volume lies between theirs and does not fall as the level rises. -/
theorem between_bounds (hlevel : q.level < q'.level) (hvolume : q.volume < q'.volume)
    (hlow : q.level ≤ lf) (hmono : lf ≤ lf') (hhigh : lf' ≤ q'.level) :
    q.volume ≤ between q q' lf ∧ between q q' lf ≤ between q q' lf' ∧
      between q q' lf' ≤ q'.volume := by
  have hd : (0 : Int) < (q'.level : Int) - q.level := by omega
  have hn : (0 : Int) ≤ (q'.volume : Int) - q.volume := by omega
  have hx : 0 ≤ (lf - q.level) * ((q'.volume : Int) - q.volume) := Int.mul_nonneg (by omega) hn
  have hxy : (lf - q.level) * ((q'.volume : Int) - q.volume) ≤
      (lf' - q.level) * ((q'.volume : Int) - q.volume) :=
    Int.mul_le_mul_of_nonneg_right (by omega) hn
  have hy : (lf' - q.level) * ((q'.volume : Int) - q.volume) ≤
      ((q'.volume : Int) - q.volume) * ((q'.level : Int) - q.level) := by
    rw [Int.mul_comm _ ((q'.level : Int) - q.level)]
    exact Int.mul_le_mul_of_nonneg_right (by omega) hn
  unfold between
  rw [Int.tdiv_eq_ediv_of_nonneg hx, Int.tdiv_eq_ediv_of_nonneg (hx.trans hxy)]
  have h1 := Int.ediv_nonneg hx hd.le
  have h2 := Int.ediv_le_ediv hd hxy
  have h3 := Int.ediv_le_of_le_mul hd hy
  omega

theorem between_at_first : between q q' q.level = q.volume := by
  unfold between
  rw [Int.sub_self, Int.zero_mul, Int.zero_tdiv, Int.add_zero]

theorem le_volumeAbove : ∀ {rest : List StrapPoint} {q : StrapPoint}, Rises (q :: rest) →
    q.level ≤ lf → q.volume ≤ volumeAbove (q :: rest) lf
  | [], _, _, _ => Int.le_refl _
  | q' :: rest, q, ⟨hl, hv, hr⟩, h => by
    by_cases hlf : lf < q'.level
    · rw [volumeAbove_within hlf]
      exact (between_bounds hl hv h (Int.le_refl _) hlf.le).1
    · rw [volumeAbove_beyond (Int.not_lt.mp hlf)]
      have := le_volumeAbove hr (Int.not_lt.mp hlf)
      omega

theorem level_le_of_mem : ∀ {rest : List StrapPoint} {q : StrapPoint}, Rises (q :: rest) →
    ∀ p ∈ q :: rest, q.level ≤ p.level
  | [], _, _, p, hp => by rw [List.mem_singleton.mp hp]
  | q' :: rest, q, ⟨hl, _, hr⟩, p, hp => by
    rcases List.mem_cons.mp hp with rfl | hp
    · exact Nat.le_refl _
    · exact hl.le.trans (level_le_of_mem hr p hp)

/-- R96: the volume at each point's level is that point's. -/
theorem volumeAbove_at_point : ∀ {rest : List StrapPoint} {q : StrapPoint}, Rises (q :: rest) →
    ∀ p ∈ q :: rest, volumeAbove (q :: rest) p.level = p.volume
  | [], _, _, p, hp => by
    rw [List.mem_singleton.mp hp]
    rfl
  | q' :: rest, q, ⟨hl, _, hr⟩, p, hp => by
    rcases List.mem_cons.mp hp with rfl | hp
    · rw [volumeAbove_within (Int.ofNat_lt.mpr hl), between_at_first]
    · rw [volumeAbove_beyond (Int.ofNat_le.mpr (level_le_of_mem hr p hp))]
      exact volumeAbove_at_point hr p hp

theorem volumeAbove_mono (hle : lf ≤ lf') : ∀ {rest : List StrapPoint} {q : StrapPoint},
    Rises (q :: rest) → q.level ≤ lf →
    volumeAbove (q :: rest) lf ≤ volumeAbove (q :: rest) lf'
  | [], _, _, _ => Int.le_refl _
  | q' :: rest, q, ⟨hl, hv, hr⟩, h => by
    by_cases hlf : lf < q'.level
    · rw [volumeAbove_within hlf]
      by_cases hlf' : lf' < q'.level
      · rw [volumeAbove_within hlf']
        exact (between_bounds hl hv h hle hlf'.le).2.1
      · rw [volumeAbove_beyond (Int.not_lt.mp hlf')]
        exact (between_bounds hl hv h (Int.le_refl _) hlf.le).2.2.trans
          (le_volumeAbove hr (Int.not_lt.mp hlf'))
    · rw [volumeAbove_beyond (Int.not_lt.mp hlf),
        volumeAbove_beyond ((Int.not_lt.mp hlf).trans hle)]
      exact volumeAbove_mono hle hr (Int.not_lt.mp hlf)

theorem volumeAbove_le_last : ∀ {rest : List StrapPoint} {q : StrapPoint} {lf : Int},
    Rises (q :: rest) → q.level ≤ lf →
    ∀ p ∈ (q :: rest).getLast?, volumeAbove (q :: rest) lf ≤ p.volume
  | [], q, _, _, _, p, hp => by
    obtain rfl : q = p := Option.some.inj hp
    exact Int.le_refl _
  | q' :: rest, q, lf, ⟨hl, hv, hr⟩, h, p, hp => by
    rw [List.getLast?_cons_cons] at hp
    by_cases hlf : lf < q'.level
    · rw [volumeAbove_within hlf]
      exact ((between_bounds hl hv h (Int.le_refl _) hlf.le).2.2.trans
        (le_volumeAbove hr (Int.le_refl _))).trans (volumeAbove_le_last hr (Int.le_refl _) p hp)
    · rw [volumeAbove_beyond (Int.not_lt.mp hlf)]
      exact volumeAbove_le_last hr (Int.not_lt.mp hlf) p hp

theorem volumeOf_below (h : lf < q.level) : volumeOf (q :: rest) lf = q.volume := if_pos h

theorem volumeOf_above (h : q.level ≤ lf) :
    volumeOf (q :: rest) lf = volumeAbove (q :: rest) lf := if_neg (Int.not_lt.mpr h)

theorem volumeOf_bounds (hr : Rises (q :: rest)) {p : StrapPoint}
    (hp : p ∈ (q :: rest).getLast?) :
    q.volume ≤ volumeOf (q :: rest) lf ∧ volumeOf (q :: rest) lf ≤ p.volume := by
  by_cases h : lf < q.level
  · rw [volumeOf_below h]
    exact ⟨Int.le_refl _, (le_volumeAbove hr (Int.le_refl _)).trans
      (volumeAbove_le_last hr (Int.le_refl _) p hp)⟩
  · rw [volumeOf_above (Int.not_lt.mp h)]
    exact ⟨le_volumeAbove hr (Int.not_lt.mp h), volumeAbove_le_last hr (Int.not_lt.mp h) p hp⟩

theorem volumeOf_mono (hr : Rises (q :: rest)) (hle : lf ≤ lf') :
    volumeOf (q :: rest) lf ≤ volumeOf (q :: rest) lf' := by
  by_cases h : lf < q.level
  · rw [volumeOf_below h]
    by_cases h' : lf' < q.level
    · rw [volumeOf_below h']
    · rw [volumeOf_above (Int.not_lt.mp h')]
      exact le_volumeAbove hr (Int.not_lt.mp h')
  · rw [volumeOf_above (Int.not_lt.mp h), volumeOf_above ((Int.not_lt.mp h).trans hle)]
    exact volumeAbove_mono hle hr (Int.not_lt.mp h)

end Strap

/-! ### The recomputation of a tank -/

section Recomputation

variable {s : State}

/-- R94 to R96, R98: a tank's record at a recomputation. -/
theorem tankAfter_gives (k : Int) (table : List StrapPoint) (x : TankThresholds) (old : Tank)
    (l : Option Int) :
    (l = none → tankAfter k table x old l = ⟨none, old.lf, old.v, .unknown⟩) ∧
    ∀ level, l = some level → ∃ lf,
      (old.lf = none → lf = level) ∧ (∀ m, old.lf = some m → lf = filterStep k m level) ∧
      tankAfter k table x old l = ⟨some level, some lf, some (volumeOf table lf),
        nextTankState x old.state (volumeOf table lf)⟩ := by
  refine ⟨?_, ?_⟩
  · rintro rfl
    rfl
  · rintro level rfl
    refine ⟨_, ?_, ?_, rfl⟩
    · intro h
      rw [h]
    · intro m h
      rw [h]

/-- R91: the combined level. -/
theorem combinedLevel_gives (front centre rear : Reading) :
    let l := combinedLevel front centre rear
    (front.good = true → rear.good = true →
      l = some (Int.tdiv (front.level.getD 0 + rear.level.getD 0 + 1) 2)) ∧
    (centre.good = true → front.good ≠ rear.good → l = centre.level) ∧
    (centre.good = false → (front.good = false ∨ rear.good = false) → l = none) ∧
    (front.good = false → rear.good = false → l = none) := by
  unfold combinedLevel
  cases front.good <;> cases rear.good <;> cases centre.good <;> simp

/-- R92: the gauge disagreement episode. -/
theorem checkGaugesIf_episode (l : Option Int) (s : State) :
    let compared := l.isSome = true ∧ s.tnk.front.good = true ∧ s.tnk.rear.good = true ∧
      s.tnk.centre.good = true
    (¬compared → (checkGaugesIf l s).tnk.episode = s.tnk.episode) ∧
    (compared → ((checkGaugesIf l s).tnk.episode = true ↔
      ((conf s).tolerances.gauge : Int) < |s.tnk.centre.level.getD 0 - l.getD 0|)) := by
  cases l with
  | none => exact ⟨fun _ => rfl, fun h => Bool.noConfusion h.1⟩
  | some l =>
    simp only [checkGaugesIf, checkGauges, Bool.and_eq_true, Option.getD_some,
      Option.isSome_some, true_and, Int.abs_eq_natAbs]
    refine ⟨fun hn => ?_, fun ⟨hf, hr, hc⟩ => ?_⟩
    · rw [if_neg fun h => hn ⟨h.1.1, h.1.2, h.2⟩]
    · rw [if_pos ⟨⟨hf, hr⟩, hc⟩]
      split
      · next hd =>
        split
        · next he => exact ⟨fun _ => hd, fun _ => he⟩
        · exact ⟨fun _ => hd, fun _ => rfl⟩
      · next hd => exact ⟨fun h => Bool.noConfusion h, fun h => absurd h hd⟩

theorem recomputeTank0_tank0 (s : State) :
    (recomputeTank0 s).tnk.tank0 = tankAfter (filterFactor s) (conf s).strap0 (conf s).tank0
      s.tnk.tank0 (combinedLevel s.tnk.front s.tnk.centre s.tnk.rear) := by
  obtain ⟨m, ht, hm⟩ := recomputeTank0_eq s
  rw [ht, checkFill_tank0]
  exact congrArg (·.tnk.tank0) hm

theorem recomputeTank0_episode (s : State) :
    (recomputeTank0 s).tnk.episode =
      (checkGaugesIf (combinedLevel s.tnk.front s.tnk.centre s.tnk.rear)
        { s with tnk := { s.tnk with tank0 := (recomputeTank0 s).tnk.tank0 } }).tnk.episode := by
  rw [recomputeTank0_tank0]
  unfold recomputeTank0
  dsimp only
  rw [checkFill_eq, handTank_eq]
  cases combinedLevel s.tnk.front s.tnk.centre s.tnk.rear <;> rfl

theorem recomputeTank0_compares (s : State) :
    let l := combinedLevel s.tnk.front s.tnk.centre s.tnk.rear
    let compared := l.isSome = true ∧ s.tnk.front.good = true ∧ s.tnk.rear.good = true ∧
      s.tnk.centre.good = true
    (¬compared → (recomputeTank0 s).tnk.episode = s.tnk.episode) ∧
    (compared → ((recomputeTank0 s).tnk.episode = true ↔
      ((conf s).tolerances.gauge : Int) < |s.tnk.centre.level.getD 0 - l.getD 0|)) := by
  rw [recomputeTank0_episode]
  exact checkGaugesIf_episode (combinedLevel s.tnk.front s.tnk.centre s.tnk.rear)
    { s with tnk := { s.tnk with tank0 := (recomputeTank0 s).tnk.tank0 } }

theorem recomputeTank0_still (s : State) :
    recomputeTank0 s = { s with
      tnk := { s.tnk with
        tank0 := (recomputeTank0 s).tnk.tank0, episode := (recomputeTank0 s).tnk.episode
        fill := (recomputeTank0 s).tnk.fill, fillValve := (recomputeTank0 s).tnk.fillValve }
      hand := (recomputeTank0 s).hand } := by
  obtain ⟨m, ht, hm⟩ := recomputeTank0_eq s
  rw [ht, checkFill_eq, hm]

/-- R100, R109: what a recomputation of tank 0 hands on. -/
theorem recomputeTank0_hand (s : State) :
    (s.tnk.fill = none → (recomputeTank0 s).tnk.fill = none ∧
      (recomputeTank0 s).tnk.fillValve = s.tnk.fillValve ∧
      (recomputeTank0 s).hand = s.hand ++ tank0Handovers s (recomputeTank0 s)) ∧
    ∀ f, s.tnk.fill = some f → ∃ ended,
      ((recomputeTank0 s).tnk.fill ≠ none → ended = []) ∧
      ((recomputeTank0 s).tnk.fill = none →
        ∃ why, ended = endingHandovers (recomputeTank0 s) f why 0) ∧
      (recomputeTank0 s).hand = s.hand ++ tank0Handovers s (recomputeTank0 s) ++ ended := by
  refine ⟨fun hnone => ?_, fun f hf => ?_⟩
  · obtain ⟨m, ht, hm⟩ := recomputeTank0_eq s
    have hfm : m.tnk.fill = none := (congrArg (·.tnk.fill) hm).trans hnone
    have hgo : checkFill m = m := by
      unfold checkFill
      rw [hfm]
    rw [ht, hgo]
    exact ⟨hfm, (congrArg (·.tnk.fillValve) hm).trans rfl, congrArg State.hand hm⟩
  · obtain ⟨hunknown, hfull, hreached, hgo⟩ := recomputeTank0_fill hf
    have hends : ∀ why, ((recomputeTank0 s).tnk.fill = none ∧
        (recomputeTank0 s).tnk.fillValve = false ∧
        (recomputeTank0 s).hand = s.hand ++ tank0Handovers s (recomputeTank0 s) ++
          endingHandovers (recomputeTank0 s) f why 0) → ∃ ended,
        ((recomputeTank0 s).tnk.fill ≠ none → ended = []) ∧
        ((recomputeTank0 s).tnk.fill = none →
          ∃ why, ended = endingHandovers (recomputeTank0 s) f why 0) ∧
        (recomputeTank0 s).hand = s.hand ++ tank0Handovers s (recomputeTank0 s) ++ ended :=
      fun why ⟨hnone, _, hhand⟩ => ⟨_, fun h => absurd hnone h, fun _ => ⟨why, rfl⟩, hhand⟩
    by_cases h1 : (recomputeTank0 s).tnk.tank0.state = .unknown
    · exact hends _ (hunknown h1)
    by_cases h2 : (recomputeTank0 s).tnk.tank0.state = .full
    · exact hends _ (hfull h2)
    by_cases h3 : (f.target : Int) ≤ (recomputeTank0 s).tnk.tank0.v.getD 0
    · exact hends _ (hreached h1 h2 h3)
    · obtain ⟨-, hhand, hrisen, hstill⟩ := hgo h1 h2 h3
      refine ⟨[], fun _ => rfl, fun hnone => ?_, by rw [List.append_nil]; exact hhand⟩
      by_cases hr : f.suspended = false ∧
          f.riseLevel + (conf s).fillItems.minRise ≤ (recomputeTank0 s).tnk.tank0.lf.getD 0
      · cases (hrisen hr).symm.trans hnone
      · cases (hstill hr).symm.trans hnone

/-- R93, R100: a recomputation of tank 1. -/
theorem recomputeTank1_eq (s : State) :
    let new := tankAfter (filterFactor s) (conf s).strap1 (conf s).tank1 s.tnk.tank1
      (tank1Level s.tnk.second)
    recomputeTank1 s = { s with
      tnk := { s.tnk with tank1 := new }
      hand := s.hand ++ tankHandovers s 1 .tank1Volume .tank1State s.tnk.tank1 new } := by
  intro new
  unfold recomputeTank1
  rw [handTank_eq]
  · rfl
  · cases tank1Level s.tnk.second <;> rfl

end Recomputation

/-- Settles O50: the filter by its step's bounds, the tables by induction on the points. -/
theorem levelsConvergeAndVolumesStayWithinTheTable :
    Obligations.LevelsConvergeAndVolumesStayWithinTheTable := by
  unfold Obligations.LevelsConvergeAndVolumesStayWithinTheTable
  refine ⟨fun k lf l hk => filterStep_towards hk lf l, fun table h => ?_, ?_⟩
  · have hr := rises_of_strapValid h
    cases table with
    | nil => exact Bool.noConfusion h
    | cons q rest =>
      refine ⟨fun lf p hp p' hp' => ?_, fun p hp => ?_, fun lf lf' hle => volumeOf_mono hr hle⟩
      · obtain rfl : q = p := Option.some.inj hp
        exact volumeOf_bounds hr hp'
      · rw [volumeOf_above (Int.ofNat_le.mpr (level_le_of_mem hr p hp))]
        exact volumeAbove_at_point hr p hp
  · intro channel v faulted s t r k tank
    refine ⟨?_, fun hchannel => ?_⟩
    · intro hchannel front centre rear at_
      have ht : t = recomputeTank0 { s with
          tnk := { s.tnk with front := front, centre := centre, rear := rear } } := by
        rcases hchannel with rfl | rfl | rfl <;> rfl
      clear_value t
      subst ht
      obtain ⟨hmean, hcentre, hnone, hnone'⟩ := combinedLevel_gives front centre rear
      let seen : State := { s with
        tnk := { s.tnk with front := front, centre := centre, rear := rear } }
      obtain ⟨hclosed, hopen⟩ := recomputeTank0_hand seen
      obtain ⟨hstands, hcompared⟩ := recomputeTank0_compares seen
      refine ⟨combinedLevel front centre rear, hmean, hcentre, hnone, hnone',
        recomputeTank0_still _, ?_, hstands, hcompared, hclosed, hopen⟩
      rw [recomputeTank0_tank0]
      exact tankAfter_gives _ _ _ _ _
    · subst hchannel
      have ht : t = _ := recomputeTank1_eq { s with tnk := { s.tnk with second := r } }
      have hl : tank1Level r = if faulted then none else some v := by
        cases faulted <;> rfl
      clear_value t
      subst ht
      refine ⟨rfl, ?_⟩
      rw [← hl]
      exact tankAfter_gives _ _ _ _ _

end Sys2Proof.Machine
end

section
/-! What an event does to each row of the lockout table: arrivals, changes of the mode, precursors
and the hold timers. -/

namespace Sys2Proof.Machine

/-! ### A row's turn in a handling -/

section Turns

variable {ev : RowEvent} {s m : State} {i : Nat} {r : RowRecord}

/-- A row whose precursor is in effect or not as before finds it so in its turn. -/
theorem inEffect_midway (hi : i < 24) (hl : s.lkt.rows.length = 24)
    (hp : ∀ p ∈ r.precursor,
      inEffect (rowSlot (handleRows ev s) p).state = inEffect (rowSlot s p).state) :
    ∀ p ∈ r.precursor, inEffect (rowSlot (midway ev s i) p).state =
      inEffect (rowSlot s p).state := fun p hpp => by
  rw [rowSlot_midway ev s i p hi hl]
  split
  · exact hp p hpp
  · rfl

/-- A row whose precursor is in effect or not as before has from a handling what the event gives. -/
theorem rowSlot_atEvent (hi : i < 24) (hl : s.lkt.rows.length = 24)
    (hp : ∀ p ∈ (rowRecord (conf s) i).precursor,
      inEffect (rowSlot (handleRows ev s) p).state = inEffect (rowSlot s p).state) :
    rowSlot (handleRows ev s) i =
      atEvent ev (midway ev s i) i (rowRecord (conf s) i) (rowSlot s i) := by
  rw [rowSlot_handleRows ev s i hi hl, afterPrecursor_same]
  exact inEffect_midway hi hl hp

/-- The rows below one that alone is concerned stand until its turn. -/
theorem rowSlot_midway_below
    (hev : ∀ j < i, ∀ m slot, atEvent ev m j (rowRecord (conf s) j) slot = slot)
    (hi : i ≤ s.lkt.rows.length) (j : Nat) : rowSlot (midway ev s i) j = rowSlot s j := by
  have hmid : ∀ n ≤ i, ∀ j, rowSlot (midway ev s n) j = rowSlot s j := fun n => by
    induction n with
    | zero => exact fun _ _ => rfl
    | succ n ih =>
      intro hn j
      have hih := ih (by omega)
      rw [midway_step ev s n j (by omega)]
      split
      · next hj =>
        subst hj
        rw [hev n (by omega),
          afterPrecursor_same fun p _ => congrArg (inEffect ·.state) (hih p), hih]
      · exact hih j
  exact hmid i le_rfl j

/-- The lowest row that an event concerns has from a handling what the event gives. -/
theorem rowSlot_lowest
    (hev : ∀ j < i, ∀ m slot, atEvent ev m j (rowRecord (conf s) j) slot = slot)
    (hi : i < 24) (hl : s.lkt.rows.length = 24) :
    rowSlot (handleRows ev s) i =
      atEvent ev (midway ev s i) i (rowRecord (conf s) i) (rowSlot s i) := by
  rw [rowSlot_handleRows ev s i hi hl, afterPrecursor_same]
  exact fun p _ => congrArg (inEffect ·.state) (rowSlot_midway_below hev (by omega) p)

/-! ### Placement -/

theorem placed_off (h : ¬(r.enable = true ∧ inMask r.mask m.lkt.mode = true)) :
    placed m i r = ⟨.off, none⟩ := by
  unfold placed
  rw [if_pos]
  cases he : r.enable <;> cases hk : inMask r.mask m.lkt.mode <;> simp_all

theorem placed_wait (h : r.enable = true ∧ inMask r.mask m.lkt.mode = true)
    (hp : ¬∀ q ∈ r.precursor, inEffect (rowSlot m q).state = true) :
    placed m i r = ⟨.wait, none⟩ := by
  unfold placed
  rw [if_neg (by simp [h.1, h.2])]
  cases hprec : r.precursor with
  | none => exact absurd (fun q hq => by rw [hprec] at hq; cases hq) hp
  | some p =>
    refine if_neg fun hin => hp fun q hq => ?_
    rw [hprec] at hq
    obtain rfl : p = q := Option.some.inj hq
    exact hin

theorem placed_evaluated (h : r.enable = true ∧ inMask r.mask m.lkt.mode = true)
    (hp : ∀ q ∈ r.precursor, inEffect (rowSlot m q).state = true) :
    placed m i r = evaluated m i r ⟨.clear, none⟩ := by
  unfold placed
  rw [if_neg (by simp [h.1, h.2])]
  cases hprec : r.precursor with
  | none => rfl
  | some p => exact if_pos (hp p (by rw [hprec]; rfl))

theorem midway_mode (ev : RowEvent) (s : State) (n : Nat) :
    (midway ev s n).lkt.mode = s.lkt.mode := by
  rw [midway_frame]

theorem atEvent_place_ne {row j : Nat} (h : j ≠ row) (slot : RowSlot) :
    atEvent (.place row) m j r slot = slot := if_neg h

theorem atEvent_expiry_ne {row j : Nat} (h : j ≠ row) (slot : RowSlot) :
    atEvent (.expiry row) m j r slot = slot := if_neg fun hn => h hn.1

/-- R47, R62, R65: what the placement of one row gives it. -/
theorem rowSlot_place (hi : i < 24) (hl : s.lkt.rows.length = 24) (hr : rowRecord (conf s) i = r) :
    let takesPart := r.enable = true ∧ inMask r.mask s.lkt.mode = true
    let mayAct := ∀ q ∈ r.precursor, inEffect (rowSlot s q).state = true
    let x := handleRows (.place i) s
    (¬takesPart → rowSlot x i = ⟨.off, none⟩) ∧
    (takesPart → ¬mayAct → rowSlot x i = ⟨.wait, none⟩) ∧
    (takesPart → mayAct → rowSlot x i =
      judged s.timeBase r (condition s i r false) (condition s i r true) ⟨.clear, none⟩) := by
  have hev : ∀ j < i, ∀ m slot,
      atEvent (.place i) m j (rowRecord (conf s) j) slot = slot :=
    fun j hj _ slot => atEvent_place_ne (by omega) slot
  have hslot : rowSlot (handleRows (.place i) s) i = placed (midway (.place i) s i) i r := by
    rw [rowSlot_lowest hev hi hl, hr]
    exact if_pos rfl
  have hbelow := rowSlot_midway_below hev (by omega)
  intro takesPart mayAct x
  simp only [x, hslot]
  have hmode := midway_mode (.place i) s i
  refine ⟨fun h => placed_off (by rw [hmode]; exact h),
    fun h hp => placed_wait (by rw [hmode]; exact h) fun hn => hp fun q hq => ?_, fun h hp => ?_⟩
  · rw [← hbelow q]
    exact hn q hq
  · rw [placed_evaluated (by rw [hmode]; exact h) fun q hq => by rw [hbelow q]; exact hp q hq,
      evaluated_midway]

end Turns

/-! ### Arrivals and changes of the mode -/

section Events

variable {s : State} {i : Nat}

theorem condition_congr {t : State} (hl : t.lkt.sources = s.lkt.sources) (hc : t.cnv = s.cnv)
    (ht : t.tnk = s.tnk) (hs : t.spd = s.spd) (i : Nat) (r : RowRecord) (wide : Bool) :
    condition t i r wide = condition s i r wide := by
  have hslot : ∀ x, sourceSlot t x = sourceSlot s x := fun x => by rw [sourceSlot, hl, sourceSlot]
  have hfaulted : ∀ x, sourceFaulted t x = sourceFaulted s x := fun x => by
    unfold sourceFaulted
    rw [hc, ht, hs]
  unfold condition tankDry
  simp only [hslot, hfaulted]

/-- R48 to R52: what an arrival gives a row that watches its source. -/
theorem rowSlot_arrival {x : Source} (hi : i < 24) (hl : s.lkt.rows.length = 24)
    (hw : watches i (rowRecord (conf s) i) x = true)
    (hp : ∀ p ∈ (rowRecord (conf s) i).precursor,
      inEffect (rowSlot (handleRows (.arrival x) s) p).state = inEffect (rowSlot s p).state) :
    rowSlot (handleRows (.arrival x) s) i =
      judged s.timeBase (rowRecord (conf s) i) (condition s i (rowRecord (conf s) i) false)
        (condition s i (rowRecord (conf s) i) true) (rowSlot s i) := by
  rw [rowSlot_atEvent hi hl hp, ← evaluated_midway]
  exact if_pos hw

/-- R53: what a change of the mode gives a row. -/
theorem rowSlot_modeChange (hi : i < 24) (hl : s.lkt.rows.length = 24)
    (hp : ∀ p ∈ (rowRecord (conf s) i).precursor,
      inEffect (rowSlot (handleRows .modeChange s) p).state = inEffect (rowSlot s p).state) :
    let r := rowRecord (conf s) i
    let slot := rowSlot s i
    let t := handleRows .modeChange s
    let judgedNow := judged s.timeBase r (condition s i r false) (condition s i r true)
    (inMask r.mask s.lkt.mode = false →
      (slot.state = .active → rowSlot t i = if r.latched then ⟨.latched, none⟩ else ⟨.off, none⟩) ∧
      (slot.state = .latched → rowSlot t i = slot) ∧
      (slot.state ≠ .active → slot.state ≠ .latched → rowSlot t i = ⟨.off, none⟩)) ∧
    (inMask r.mask s.lkt.mode = true →
      (slot.state ≠ .off → rowSlot t i = judgedNow slot) ∧
      (slot.state = .off → r.enable = false → rowSlot t i = ⟨.off, none⟩) ∧
      (slot.state = .off → r.enable = true →
        ((∀ p ∈ r.precursor, inEffect (rowSlot s p).state = true) →
          rowSlot t i = judgedNow ⟨.clear, none⟩) ∧
        ((∃ p ∈ r.precursor, inEffect (rowSlot s p).state = false) →
          rowSlot t i = ⟨.wait, none⟩))) := by
  intro r slot t judgedNow
  have hmode := midway_mode .modeChange s i
  have hmid := inEffect_midway hi hl hp
  have ht : rowSlot t i = atModeChange (midway .modeChange s i) i r slot := rowSlot_atEvent hi hl hp
  unfold atModeChange at ht
  rw [hmode] at ht
  clear_value t
  refine ⟨fun hout => ?_, fun hin => ?_⟩
  · rw [hout, if_neg Bool.false_ne_true] at ht
    refine ⟨fun h => ?_, fun h => ?_, fun h1 h2 => ?_⟩
    · rwa [h] at ht
    · rwa [h] at ht
    · cases h : slot.state
      case active => exact absurd h h1
      case latched => exact absurd h h2
      all_goals rwa [h] at ht
  · rw [hin, if_pos rfl] at ht
    refine ⟨fun h => ?_, fun h he => ?_, fun h he => ⟨fun hact => ?_, fun ⟨p, hpp, hact⟩ => ?_⟩⟩
    · refine Eq.trans ?_ (evaluated_midway .modeChange s i i r slot)
      cases hs : slot.state
      case off => exact absurd hs h
      all_goals rwa [hs] at ht
    · rw [h] at ht
      exact ht.trans (placed_off (by simp [he]))
    · rw [h] at ht
      exact ht.trans ((placed_evaluated ⟨he, by rw [hmode]; exact hin⟩
        fun q hq => (hmid q hq).trans (hact q hq)).trans (evaluated_midway _ _ _ _ _ _))
    · rw [h] at ht
      refine ht.trans (placed_wait ⟨he, by rw [hmode]; exact hin⟩ fun hn => ?_)
      exact Bool.noConfusion ((hn p hpp).symm.trans ((hmid p hpp).trans hact))

/-- A handling begun where LKT has taken a value or a mode, told from the state before that. -/
theorem handled_of_lkt {u : State} {l : LktUnit} (ev : RowEvent) (hu : u = { s with lkt := l })
    (hr : l.rows = s.lkt.rows) (hb : l.blocks = s.lkt.blocks) (hk : l.lock = s.lkt.lock) :
    Handled s (handleRows ev u) := by
  rw [hu]
  exact handleRows_handled_of_lkt ev hr hb hk

/-- What a handling does to a row that its event does not concern, told from another state of the
same rows. -/
theorem Follows.of_rows {s' t : State} (hrows : s'.lkt.rows = s.lkt.rows) (h : Follows s' t i) :
    Follows s t i := by
  have hslot : ∀ j, rowSlot s' j = rowSlot s j := fun j => by rw [rowSlot, hrows, rowSlot]
  unfold Follows at h ⊢
  simp only [hslot] at h
  exact h

/-! ### Conditions -/

/-- R61: the condition of row 6. -/
theorem condition_row6 (s : State) (r : RowRecord) (wide : Bool) :
    condition s 6 r wide = true ↔
      (sourceSlot s .supply).latest = some (supplyCode .tank : Int) ∧
      ((sourceSlot s .tank0State).latest = some (tankStateCode .unknown : Int) ∨
        (sourceSlot s .tank0State).latest = some (tankStateCode .empty : Int)) := by
  unfold condition tankDry
  rw [if_pos rfl, Bool.and_eq_true, Bool.or_eq_true, beq_iff_eq, beq_iff_eq, beq_iff_eq]
  rfl

theorem compareIf_none (r : RowRecord) (wide : Bool) : compareIf r wide none = false := rfl

theorem compareIf_some (r : RowRecord) (wide : Bool) (v : Int) :
    compareIf r wide (some v) = compare r wide v := rfl

/-- R43, R46: the condition of any other row whose comparison is not ALWAYS. -/
theorem condition_compared {r : RowRecord} (h6 : i ≠ 6) (hr : r.comparison ≠ .always)
    (wide : Bool) :
    condition s i r wide =
      if sourceFaulted s r.source = true ∧ r.onFaultTrue = true then true
      else compareIf r wide (if sourceFaulted s r.source then (sourceSlot s r.source).lastGood
        else (sourceSlot s r.source).latest) := by
  unfold condition
  rw [if_neg h6, if_neg hr]
  cases sourceFaulted s r.source <;> cases r.onFaultTrue <;> rfl

end Events

/-! ### The hold timers -/

section Hold

variable {s : State} {i : Nat}

/-- R50: what the handling of a hold timer's expiry gives its row. -/
theorem rowSlot_expiry (hi : i < 24) (hl : s.lkt.rows.length = 24)
    (hh : (rowSlot s i).state = .holding) :
    rowSlot (handleRows (.expiry i) s) i = ⟨.active, none⟩ := by
  rw [rowSlot_lowest (fun j hj _ slot => atEvent_expiry_ne (by omega) slot) hi hl]
  exact if_pos ⟨rfl, hh⟩

/-- A row that precedes none changes alone when its hold timer expires. -/
theorem rowSlot_midway_expiry (hh : (rowSlot s i).state = .holding)
    (hl : s.lkt.rows.length = 24)
    (hp : ∀ j < 24, (rowRecord (conf s) j).precursor ≠ some i) {n : Nat} (hn : n ≤ 24) (j : Nat) :
    rowSlot (midway (.expiry i) s n) j =
      if j = i ∧ i < n then ⟨.active, none⟩ else rowSlot s j := by
  induction n generalizing j with
  | zero => exact (if_neg (by omega)).symm
  | succ n ih =>
    have hih := ih (by omega)
    rw [midway_step _ s n j (by omega)]
    split
    · next hj =>
      subst hj
      have hsame : rowSlot (midway (.expiry i) s n) n = rowSlot s n :=
        (hih n).trans (if_neg (by omega))
      rw [afterPrecursor_same fun p hpp => ?_, hsame]
      · by_cases hi : n = i
        · subst hi
          rw [if_pos ⟨rfl, Nat.lt_succ_self _⟩]
          exact if_pos ⟨rfl, hh⟩
        · rw [if_neg fun h => hi h.1]
          exact atEvent_expiry_ne hi _
      · have hne : p ≠ i := fun he => hp n (by omega) (he ▸ hpp)
        rw [hih p, if_neg fun h => hne h.1]
        rfl
    · next hj =>
      rw [hih j]
      by_cases hji : j = i
      · subst hji
        have hlt : j < n ↔ j < n + 1 := by omega
        simp only [hlt]
      · rw [if_neg fun h => hji h.1, if_neg fun h => hji h.1]

theorem withHand_nil (h : s.hand = []) : { s with hand := [] } = s := by rw [← h]

theorem lktUnit_ext {a b : LktUnit} (hrows : a.rows = b.rows) (hsources : a.sources = b.sources)
    (hlock : a.lock = b.lock) (hmode : a.mode = b.mode) (hblocks : a.blocks = b.blocks)
    (hpermit : a.drivePermit = b.drivePermit) : a = b := by
  cases a
  cases b
  simp only [LktUnit.mk.injEq]
  exact ⟨hrows, hsources, hlock, hmode, hblocks, hpermit⟩

theorem rows_ext {l l' : List RowSlot} (hlen : l.length = l'.length)
    (h : ∀ j, l.getD j ⟨.off, none⟩ = l'.getD j ⟨.off, none⟩) : l = l' := by
  refine List.ext_getElem hlen fun j hj hj' => ?_
  have := h j
  rwa [List.getD_eq_getElem _ _ hj, List.getD_eq_getElem _ _ hj'] at this

theorem flatMap_range_single {α : Type} (x : α) {i n : Nat} (hi : i < n) :
    ((List.range n).flatMap fun j => if j = i then [x] else []) = [x] := by
  induction n with
  | zero => omega
  | succ n ih =>
    rw [List.range_succ, List.flatMap_append]
    by_cases h : i = n
    · subst h
      have hnone : ((List.range i).flatMap fun j => if j = i then [x] else []) = [] := by
        rw [List.flatMap_eq_nil_iff]
        exact fun j hj => if_neg (List.mem_range.mp hj).ne
      rw [hnone]
      simp
    · rw [ih (by omega)]
      simp [Ne.symm h]

/-- R50, R55: a row that blocks nothing and precedes none becomes ACTIVE alone. -/
theorem handleRows_expiry_alone (hs : LktSound s) (hi : i < 24)
    (hh : (rowSlot s i).state = .holding) (hb : (rowRecord (conf s) i).blocks = 0)
    (hp : ∀ j < 24, (rowRecord (conf s) j).precursor ≠ some i) :
    handleRows (.expiry i) s = { s with
      lkt := { s.lkt with rows := s.lkt.rows.set i ⟨.active, none⟩ }
      hand := s.hand ++ [notice s .lkt .rowState i 0x0403 .subscribers] } := by
  obtain ⟨hl, -, -, hblocks, hpermit⟩ := hs
  obtain ⟨hrows, hsources, hmode, hlock⟩ := handleRows_lkt (.expiry i) s
  obtain ⟨hbits, hpermit', -, hlen, heq⟩ := handleRows_handled (.expiry i) s
  have hconf := conf_handleRows (.expiry i) s
  generalize handleRows (.expiry i) s = t at *
  have hslot : ∀ j, rowSlot t j = if j = i then ⟨.active, none⟩ else rowSlot s j := fun j => by
    rw [rowSlot, hrows]
    refine (rowSlot_midway_expiry hh hl hp le_rfl j).trans ?_
    simp only [hi, and_true]
  have hset : t.lkt.rows = s.lkt.rows.set i ⟨.active, none⟩ := by
    refine rows_ext (by rw [hlen, List.length_set]) fun j => ?_
    refine (hslot j).trans ?_
    rw [← replaceAt_eq_set, replaceAt_getD, rowSlot]
    simp only [hl, hi, and_true, eq_comm]
  have hsame : t.lkt.blocks = s.lkt.blocks := by
    refine BitVec.eq_of_getLsbD_eq fun n _ => ?_
    rw [Bool.eq_iff_iff, hbits, hblocks, derivedBlocks_getLsbD, hconf]
    refine exists_congr fun j => and_congr_right fun _ => ?_
    rw [hslot]
    by_cases hj : j = i
    · subst hj
      simp [hb]
    · rw [if_neg hj]
  have hfill : fillActive t = fillActive s := by rw [fillActive, sourceSlot, hsources]; rfl
  have hlkt : t.lkt = { s.lkt with rows := s.lkt.rows.set i ⟨.active, none⟩ } :=
    lktUnit_ext hset hsources hlock hmode hsame (by rw [hpermit', hmode, hfill, hsame, ← hpermit])
  have hnotices : rowNotices s t = [notice s .lkt .rowState i 0x0403 .subscribers] := by
    refine Eq.trans ?_ (flatMap_range_single _ hi)
    unfold rowNotices
    congr 1
    funext j
    rw [hslot]
    by_cases hj : j = i
    · subst hj
      rw [if_pos rfl, if_pos rfl, hh]
      rfl
    · rw [if_neg hj, if_neg hj, if_pos rfl]
  rw [heq, hnotices, if_pos hsame, List.append_nil, hlkt]

end Hold

/-- Settles O53: the rows' turns in a handling, the conditions, and the expiry of a hold timer. -/
theorem rowsFollowArrivalsModesAndTimers : Obligations.RowsFollowArrivalsModesAndTimers := by
  unfold Obligations.RowsFollowArrivalsModesAndTimers
  refine ⟨?_, ?_, ?_, ?_, ?_, ?_⟩
  · intro sender x v s i hi hl hn t u r slot judgedNow acts
    have hhandled : Handled s (handleRows (.arrival x) u) := handled_of_lkt _ rfl rfl rfl rfl
    have hseen : sourceSlot (handleRows (.arrival x) u) x = _ := sourceSlot_lktTakesArrival x v s hn
    obtain ⟨-, hsources, hmode, -⟩ := handleRows_lkt (.arrival x) u
    have hother : ∀ y, y ≠ x → sourceSlot u y = sourceSlot s y :=
      fun y hy => sourceSlot_takeValue_ne (Ne.symm hy) v s
    have hcount : u.lkt.sources.length = 17 := (replaceAt_length _ _ _).trans hn
    have hconf : conf u = conf s := rfl
    have hslot : ∀ j, rowSlot u j = rowSlot s j := fun _ => rfl
    have hlu : u.lkt.rows.length = 24 := hl
    have hmodeu : u.lkt.mode = s.lkt.mode := rfl
    have htime : u.timeBase = s.timeBase := rfl
    have ht : t = handleRows (.arrival x) u := rfl
    have hrow := rowSlot_arrival (s := u) (x := x) hi hlu
    have hfollows := fun hev => (follows_handleRows (.arrival x) u i hi hlu hev).of_rows
      (s := s) rfl
    clear_value t u
    rw [hconf, htime] at hrow
    simp only [hslot] at hrow
    rw [ht]
    refine ⟨hhandled, hmode.trans hmodeu, hseen, fun y hy => ?_, by rw [hsources]; exact hcount,
      fun hw hp => hrow hw hp, fun hw => hfollows fun m slot => if_neg ?_⟩
    · rw [sourceSlot, hsources]
      exact hother y hy
    · rw [hconf]
      exact Bool.not_eq_true _ ▸ hw
  · intro m s i hi hl t r slot judgedNow acts
    obtain ⟨u, hu⟩ : ∃ u : State, u = { s with lkt := { s.lkt with mode := m } } := ⟨_, rfl⟩
    have hhandled : Handled s (handleRows .modeChange u) := handled_of_lkt _ hu rfl rfl rfl
    obtain ⟨-, hsources, hmode, -⟩ := handleRows_lkt .modeChange u
    have ht : t = handleRows .modeChange u := by rw [hu]; rfl
    have hcond : ∀ wide, condition u i r wide = condition s i r wide := fun wide =>
      condition_congr (by rw [hu]) (by rw [hu]) (by rw [hu]) (by rw [hu]) i r wide
    have hconf : conf u = conf s := by rw [hu]; rfl
    have hslot : ∀ j, rowSlot u j = rowSlot s j := fun j => by rw [hu]; rfl
    have hrow := rowSlot_modeChange (s := u) hi (by rw [hu]; exact hl)
    rw [hconf, show u.timeBase = s.timeBase by rw [hu], show u.lkt.mode = m by rw [hu]] at hrow
    simp only [hslot] at hrow
    clear_value t
    rw [ht]
    refine ⟨hhandled, hmode.trans (by rw [hu]), hsources.trans (by rw [hu]), fun hp => ?_⟩
    simp only [r, hcond] at hrow
    exact hrow hp
  · intro s r wide
    refine ⟨condition_row6 s r wide, fun i h6 hr => ?_⟩
    unfold condition
    rw [if_neg h6, if_pos hr]
  · intro s i r wide h6 hr value
    rw [condition_compared h6 hr]
    refine ⟨fun hf ht => if_pos ⟨hf, ht⟩, fun h => ?_⟩
    rw [if_neg fun hn => h.elim (fun h => by simp [h] at hn) fun h => by simp [h] at hn]
    exact ⟨fun hv => congrArg (compareIf r wide) hv, fun v hv => congrArg (compareIf r wide) hv⟩
  · intro w i s hp hs hi hl hh u hdue
    have hlu : u.lkt.rows.length = 24 := (congrArg (·.rows.length) (advance_lkt _ _)).trans hl
    have hslot : rowSlot u i = rowSlot s i := by rw [rowSlot, advance_lkt, rowSlot]
    have hexec := exec_running (c := .holdTimerExpiry w i) (w := w) rfl rfl hp hs
    rw [if_pos (by rw [hslot]; exact ⟨hh, hdue⟩)] at hexec
    obtain ⟨-, hsources, hmode, -⟩ := handleRows_lkt (.expiry i) u
    have hhandled := handleRows_handled (.expiry i) u
    refine ⟨handleRows (.expiry i) u, hexec, hhandled,
      rowSlot_expiry hi hlu (by rw [hslot]; exact hh),
      hmode.trans (congrArg LktUnit.mode (advance_lkt _ _)),
      hsources.trans (congrArg LktUnit.sources (advance_lkt _ _)), fun j hj hne => ?_⟩
    exact follows_handleRows _ u j hj hlu fun m slot => atEvent_expiry_ne hne slot
  · intro w i s hp hs hi u posted x
    have hslot : rowSlot u i = rowSlot s i := by rw [rowSlot, advance_lkt, rowSlot]
    have hexec := exec_running (c := .holdTimerExpiry w i) (w := w) rfl rfl hp hs
    refine ⟨fun hsound hh hdue hb hprec => ?_, fun hh => ?_⟩
    · have hsu : LktSound u := hsound.of_eq (advance_lkt _ _) fun _ _ => by rw [conf_advance]
      rw [if_pos (by rw [hslot]; exact ⟨hh, hdue⟩), handleRows_expiry_alone hsu hi
        (by rw [hslot]; exact hh) (by rw [conf_advance]; exact hb)
        (by rw [conf_advance]; exact hprec), advance_hand, hs, advance_lkt] at hexec
      refine ⟨hexec, fun hw => hexec.trans (congrArg _ ?_)⟩
      refine (takeHandovers_notice (s := { x with hand := [.notice .lkt posted .subscribers] }) hw
        rfl).trans (congrArg (placeNotice posted .subscribers) ?_)
      exact withHand_nil (s := x) ((advance_hand _ _).trans hs)
    · rw [if_neg fun h => hh (hslot ▸ h.1)] at hexec
      rw [hexec, takeHandovers_of_hand_nil w ((advance_hand _ _).trans hs)]

end Sys2Proof.Machine
end

section
/-! ACK_ROW, WRITE_ROW and LOCK_TABLE. -/

namespace Sys2Proof.Machine

/-! ### LOCK_TABLE -/

section Lock

variable {c : Instr} {w : When} {p : Port} {own : Nat} {holder : Option Port} {s : State}
  {arg : Word}

theorem exec_lock (hc : effectOf c = whenRunning (serveLock p own holder)) (hw : whenOf c = w)
    (hp : s.phase = .running) (hs : s.hand = []) (ha : askedOf s p .lockTable = some [arg])
    (hown : arg.toNat = own ∨ 1 < arg.toNat) {l : Option Port} {r : Result} {data : List Word}
    (hd : ∀ u, u.lkt = s.lkt → portHolds u p .config = portHolds s p .config →
      decideLock p own holder [arg] u =
        ({ u with lkt := { u.lkt with lock := l } }, r, data)) :
    exec c s = .next { advance w.dt s with
      lkt := { s.lkt with lock := l }, links := answered s p ⟨.lockTable, r, data⟩ } := by
  have ha' : askedOf (advance w.dt s) p .lockTable = some [arg] := by rw [askedOf_advance, ha]
  have hserve : serveLock p own holder (advance w.dt s) =
      serve p .lockTable (decideLock p own holder) (advance w.dt s) := by
    unfold serveLock
    rw [ha']
    exact if_pos hown
  rw [exec_running hc hw hp hs, hserve, serve_asked _ ha',
    hd _ (advance_lkt _ _) (portHolds_advance _ _ _ _), fixAnswer_eq]
  refine congrArg _ ((takeHandovers_of_hand_nil w ?_).trans ?_)
  · exact (advance_hand _ _).trans hs
  · simp only [answered, advance_links, advance_lkt]

/-- The row of the other argument takes no part. -/
theorem exec_lock_other (hc : effectOf c = whenRunning (serveLock p own holder)) (hw : whenOf c = w)
    (hp : s.phase = .running) (hs : s.hand = []) (ha : askedOf s p .lockTable = some [arg])
    (hown : ¬(arg.toNat = own ∨ 1 < arg.toNat)) : exec c s = .next (advance w.dt s) := by
  have hserve : serveLock p own holder (advance w.dt s) = advance w.dt s := by
    unfold serveLock
    rw [askedOf_advance, ha]
    exact if_neg hown
  rw [exec_running hc hw hp hs, hserve,
    takeHandovers_of_hand_nil w ((advance_hand _ _).trans hs)]

theorem decideLock_noRight (h : portHolds s p .config = false) :
    decideLock p own holder [arg] s =
      ({ s with lkt := { s.lkt with lock := s.lkt.lock } }, .noRight, []) :=
  if_pos (by simp [h])

theorem decideLock_badArgument (h : portHolds s p .config = true) (hown : arg.toNat ≠ own) :
    decideLock p own holder [arg] s =
      ({ s with lkt := { s.lkt with lock := s.lkt.lock } }, .badArgument, []) :=
  (if_neg (by simp [h])).trans (if_pos hown)

theorem decideLock_locked (h : portHolds s p .config = true) (hown : arg.toNat = own) {q : Port}
    (hq : s.lkt.lock = some q) (hne : q ≠ p) :
    decideLock p own holder [arg] s =
      ({ s with lkt := { s.lkt with lock := s.lkt.lock } }, .locked, [wordOfNat (portCode q)]) := by
  have hagainst : lockedAgainst p s = true := by
    rw [lockedAgainst, hq]
    exact bne_iff_ne.mpr hne
  refine (if_neg (by simp [h])).trans ((if_neg (not_not_intro hown)).trans
    ((if_pos hagainst).trans ?_))
  exact congrArg (fun n => (s, Result.locked, [wordOfNat n])) (by rw [hq]; rfl)

theorem decideLock_taken (h : portHolds s p .config = true) (hown : arg.toNat = own)
    (hlock : s.lkt.lock = none ∨ s.lkt.lock = some p) :
    decideLock p own holder [arg] s =
      ({ s with lkt := { s.lkt with lock := holder } }, .ok, [wordOfNat (holderCode holder)]) := by
  have hagainst : lockedAgainst p s = false := by
    rw [lockedAgainst]
    rcases hlock with hl | hl <;> rw [hl]
    exact bne_self_eq_false p
  exact (if_neg (by simp [h])).trans ((if_neg (not_not_intro hown)).trans
    (if_neg (by simp [hagainst])))

end Lock

/-- Settles O56: the checks of LOCK_TABLE in their order, for the row that takes the request. -/
theorem lockTableSetsAndFrees : Obligations.LockTableSetsAndFrees := by
  unfold Obligations.LockTableSetsAndFrees
  intro w p s hp hs u result
  have hserved : ∀ (c : Instr) (own : Nat) (holder : Option Port) (arg : Word),
      effectOf c = whenRunning (serveLock p own holder) → whenOf c = w → arg.toNat = own →
      askedOf s p .lockTable = some [arg] →
      (portHolds s p .config = false → result c s.lkt.lock .noRight []) ∧
      (portHolds s p .config = true → s.lkt.lock = none ∨ s.lkt.lock = some p →
        result c holder .ok [wordOfNat (holderCode holder)]) ∧
      (∀ q, portHolds s p .config = true → s.lkt.lock = some q → q ≠ p →
        result c s.lkt.lock .locked [wordOfNat (portCode q)]) :=
    fun c own holder arg hc hw hown ha =>
    ⟨fun h => exec_lock hc hw hp hs ha (.inl hown) fun u hl hr => by
        rw [decideLock_noRight (hr.trans h), hl],
      fun h hlock => exec_lock hc hw hp hs ha (.inl hown) fun u hl hr =>
        decideLock_taken (hr.trans h) hown (by rw [hl]; exact hlock),
      fun q h hq hne => exec_lock hc hw hp hs ha (.inl hown) fun u hl hr => by
        rw [decideLock_locked (hr.trans h) hown (by rw [hl]; exact hq) hne, hl]⟩
  refine ⟨fun ha => ?_, fun ha => ?_, fun arg ha harg r h => ?_⟩
  · obtain ⟨hright, htaken, hlocked⟩ :=
      hserved (.lockTableSet w p) lockSet (some p) 1 rfl rfl rfl ha
    exact ⟨hright, htaken, hlocked,
      exec_lock_other (c := .lockTableClear w p) rfl rfl hp hs ha (by decide)⟩
  · obtain ⟨hright, htaken, hlocked⟩ :=
      hserved (.lockTableClear w p) lockClear none 0 rfl rfl rfl ha
    exact ⟨hright, htaken, hlocked,
      exec_lock_other (c := .lockTableSet w p) rfl rfl hp hs ha (by decide)⟩
  · have hrefused : ∀ (c : Instr) (own : Nat) (holder : Option Port), own ≤ 1 →
        effectOf c = whenRunning (serveLock p own holder) → whenOf c = w →
        result c s.lkt.lock r [] := fun c own holder hown hc hw => by
      refine exec_lock hc hw hp hs ha (.inr harg) fun u hl hr => ?_
      rcases h with ⟨hright, rfl⟩ | ⟨hright, rfl⟩
      · rw [decideLock_noRight (hr.trans hright), hl]
      · rw [decideLock_badArgument (hr.trans hright) (by omega), hl]
    exact ⟨hrefused (.lockTableSet w p) lockSet (some p) (by decide) rfl rfl,
      hrefused (.lockTableClear w p) lockClear none (by decide) rfl rfl⟩

/-! ### A handling in a request -/

section Requests

variable {s t u : State} {i : Nat}

theorem Handled.withLinks (h : Handled s t) (l : PerPort Link) :
    Handled { s with links := l } { t with links := l } := by
  obtain ⟨hblocks, hpermit, hlock, hrows, heq⟩ := h
  exact ⟨hblocks, hpermit, hlock, hrows, congrArg (fun y : State => { y with links := l }) heq⟩

theorem Follows.withLinks (h : Follows s t i) (l : PerPort Link) :
    Follows s { t with links := l } i := h

/-- R49: what is placed as CLEAR is not LATCHED. -/
theorem judged_clear_ne_latched (now : Count32) (r : RowRecord) (plain wide : Bool) :
    (judged now r plain wide ⟨.clear, none⟩).state ≠ .latched := by
  cases plain
  · simp [judged]
  · unfold judged
    dsimp only
    split <;> simp

/-- R55: the notice of a row whose state a handling has changed. -/
theorem notice_of_handled (h : Handled s t) (hi : i < 24)
    (hne : (rowSlot t i).state ≠ (rowSlot s i).state) :
    notice s .lkt .rowState i (wordOfNat (256 * rowStateCode (rowSlot t i).state +
      rowStateCode (rowSlot s i).state)) .subscribers ∈ t.hand := by
  obtain ⟨-, -, -, -, heq⟩ := h
  rw [congrArg State.hand heq]
  refine List.mem_append_left _ (List.mem_append_right _ ?_)
  refine List.mem_flatMap.mpr ⟨i, List.mem_range.mpr hi, ?_⟩
  rw [if_neg hne]
  exact List.mem_singleton.mpr rfl

end Requests

/-! ### ACK_ROW -/

section AckRow

variable {s : State} {p : Port} {row : Word}

theorem decideAckRow_placed (hright : portHolds s p .ack = true) (hrow : row.toNat < 24)
    (h : (rowSlot s row.toNat).state = .latched) :
    decideAckRow p [row] s = (handleRows (.place row.toNat) s, .ok, []) := by
  unfold decideAckRow
  rw [if_neg (by simp [hright]), show argAt [row] 0 = row.toNat from rfl,
    if_neg (Nat.not_le.mpr hrow), h]

/-- R62: the refusals of ACK_ROW, and the rows that need no acknowledgement. -/
theorem decideAckRow_unmoved {r : Result}
    (h : (portHolds s p .ack = false ∧ r = .noRight) ∨
      (portHolds s p .ack = true ∧ 24 ≤ row.toNat ∧ r = .badArgument) ∨
      (portHolds s p .ack = true ∧ row.toNat < 24 ∧
        (rowSlot s row.toNat).state = .active ∧ r = .condition) ∨
      (portHolds s p .ack = true ∧ row.toNat < 24 ∧
        ((rowSlot s row.toNat).state = .off ∨ (rowSlot s row.toNat).state = .wait ∨
          (rowSlot s row.toNat).state = .clear ∨ (rowSlot s row.toNat).state = .holding) ∧
        r = .ok)) :
    decideAckRow p [row] s = (s, r, []) := by
  unfold decideAckRow
  rw [show argAt [row] 0 = row.toNat from rfl]
  rcases h with ⟨hright, rfl⟩ | ⟨hright, hrow, rfl⟩ | ⟨hright, hrow, hstate, rfl⟩ |
    ⟨hright, hrow, hstate, rfl⟩
  · exact if_pos (by simp [hright])
  · exact (if_neg (by simp [hright])).trans (if_pos hrow)
  · rw [if_neg (by simp [hright]), if_neg (Nat.not_le.mpr hrow), hstate]
    rfl
  · rw [if_neg (by simp [hright]), if_neg (Nat.not_le.mpr hrow)]
    rcases hstate with hx | hx | hx | hx <;> rw [hx]

end AckRow

/-! ### An OFF row while a step settles in ROAD or PARKED -/

/-- The row is OFF, the mode is `m`, which no block set moves, and the mode is not handed on. -/
structure RowStaysOff (i : Nat) (m : Mode) (s : State) : Prop where
  ensuing : ∀ h ∈ s.hand, ensues ⟨false, false, false⟩ h = true
  rows : s.lkt.rows.length = 24
  off : rowSlot s i = ⟨.off, none⟩
  mode : s.seq.mode = m

section RowStaysOff

variable {i : Nat} {m : Mode} {s : State}

theorem movable_of_standing {m : Mode} (h : standing m = true) : movable m = false := by
  revert h
  cases m <;> decide

theorem afterPrecursor_off (before : List RowSlot) (s : State) (r : RowRecord) :
    afterPrecursor before s i r ⟨.off, none⟩ = ⟨.off, none⟩ := by
  unfold afterPrecursor
  split
  · rfl
  split <;> rfl

/-- No arrival takes a row out of OFF. -/
theorem rowSlot_arrival_off (x : Source) (hi : i < 24) (hl : s.lkt.rows.length = 24)
    (h : rowSlot s i = ⟨.off, none⟩) : rowSlot (handleRows (.arrival x) s) i = ⟨.off, none⟩ := by
  rw [rowSlot_handleRows _ s i hi hl, h, afterPrecursor_off]
  unfold atEvent
  dsimp only
  split <;> rfl

theorem RowStaysOff.deliver (hi : i < 24) (hm : movable m = false) (h : RowStaysOff i m s)
    {g : Handover} (hg : ensues ⟨false, false, false⟩ g = true) :
    RowStaysOff i m (deliver g s) := by
  obtain ⟨hens, hl, hoff, hmode⟩ := h
  have hmov : movable s.seq.mode = false := by rw [hmode]; exact hm
  have hrelease : g ≠ .releaseToSeq := by
    rintro rfl
    cases hg
  have hafter := (ensuing_deliver hg hrelease (fun hf => Bool.noConfusion hf)
    fun _ _ => .inr hmov).all hens
  have hsame := sameBut_deliver g s
  cases g with
  | arrival sender x v =>
    rw [deliver_arrival] at hafter ⊢
    have hrows := (handleRows_lkt (.arrival x) (takeValue x v s)).1
    refine ⟨hafter, ?_, rowSlot_arrival_off x hi hl hoff, ?_⟩
    · rw [hrows, midway_length]
      exact hl
    · rw [deliver_arrival] at hsame
      rw [hsame.seq (by simp [path])]
      exact hmode
  | modeToLkt _ => cases hg
  | blocksToSeq b =>
    rw [Machine.deliver, seqTakesBlocks_stays (.inr hmov)] at hafter ⊢
    exact ⟨hafter, hl, hoff, hmode⟩
  | wordToSeq _ => cases hg
  | releaseToSeq => cases hg
  | speedToSeq => cases hg
  | pumpToSeq _ => cases hg
  | _ =>
    have hlkt := hsame.lkt (by simp [path])
    exact ⟨hafter, by rw [hlkt]; exact hl, by rw [rowSlot, hlkt]; exact hoff,
      by rw [hsame.seq (by simp [path])]; exact hmode⟩

theorem RowStaysOff.takeHandovers (hi : i < 24) (hm : movable m = false)
    (h : RowStaysOff i m s) (w : When) : RowStaysOff i m (takeHandovers w s) :=
  takeHandovers_induct (RowStaysOff i m)
    (fun _ rest s' h hg hrest => RowStaysOff.deliver (s := { s' with hand := rest }) hi hm
      ⟨fun g hgr => h.ensuing g (hrest g hgr), h.rows, h.off, h.mode⟩ (h.ensuing _ hg)) w s h

end RowStaysOff

/-- Settles O54: the row placed as a handling places it; once OFF it stays so to the step's end. -/
theorem ackRowPlacesALatchedRow : Obligations.AckRowPlacesALatchedRow := by
  unfold Obligations.AckRowPlacesALatchedRow
  intro w p s row hp hs ha u state
  have hslot : ∀ j, rowSlot u j = rowSlot s j := fun j => by rw [rowSlot, advance_lkt, rowSlot]
  refine ⟨?_, fun res h => ?_⟩
  · intro hright hrow hl (hlatched : (rowSlot s row.toNat).state = .latched) r takesPart mayAct
    have hlu : u.lkt.rows.length = 24 := by rw [advance_lkt]; exact hl
    have hd := decideAckRow_placed (s := u) (p := p) (row := row)
      (by rw [portHolds_advance]; exact hright) hrow (by rw [hslot]; exact hlatched)
    have hlinks : (handleRows (.place row.toNat) u).links = s.links :=
      (links_of_still (still_handleRows _ _)).trans (advance_links _ _)
    have hexec := exec_request_links (c := .ackRow w p) rfl rfl hp hs ha hd hlinks
    have hhandled := handleRows_handled (.place row.toNat) u
    have hplaced := rowSlot_place (s := u) hrow hlu rfl
    obtain ⟨-, hsources, hmode, -⟩ := handleRows_lkt (.place row.toNat) u
    have hfollows : ∀ j < 24, j ≠ row.toNat → Follows u (handleRows (.place row.toNat) u) j :=
      fun j hj hne => follows_handleRows _ u j hj hlu fun m slot => atEvent_place_ne hne slot
    have hstill := still_handleRows (.place row.toNat) u
    have hseq : (handleRows (.place row.toNat) u).seq = u.seq :=
      (SameBut.of_besideLkt (besideLkt_handleRows _ _)).seq (by decide)
    have hcond : ∀ wide, condition u row.toNat r wide = condition s row.toNat r wide :=
      fun wide => condition_congr (by rw [advance_lkt]) (advance_cnv _ _) (advance_tnk _ _)
        (advance_spd _ _) _ _ _
    have hconf : conf u = conf s := conf_advance _ _
    have hlktu : u.lkt = s.lkt := advance_lkt _ _
    have hhandu : u.hand = [] := (advance_hand _ _).trans hs
    generalize handleRows (.place row.toNat) u = v at *
    rw [hconf] at hplaced
    simp only [hslot, hlktu] at hplaced
    simp only [r, hcond] at hplaced
    obtain ⟨hoff, hwait, hjudged⟩ := hplaced
    have hnot : (rowSlot v row.toNat).state ≠ .latched := by
      by_cases htakes : takesPart
      · by_cases hmay : mayAct
        · rw [hjudged htakes hmay]
          exact judged_clear_ne_latched _ _ _ _
        · simp [hwait htakes hmay]
      · simp [hoff htakes]
    have hnotice := notice_of_handled hhandled hrow (by rw [hslot, hlatched]; exact hnot)
    rw [hslot, hlatched] at hnotice
    refine ⟨⟨_, hexec, hhandled.withLinks _, hmode.trans (by rw [hlktu]),
      hsources.trans (by rw [hlktu]), fun j hj hne => (hfollows j hj hne).withLinks _, hoff, hwait,
      hjudged, hnot, hnotice⟩, fun hmask hstanding => ?_⟩
    have hmov := movable_of_standing hstanding
    have hsettled : RowStaysOff row.toNat s.seq.mode { v with
        links := answered s p ⟨.ackRow, .ok, []⟩ } :=
      ⟨(ensuing_handled (Ensuing.refl _ u) hhandled fun hf => Bool.noConfusion hf).all
        (by rw [hhandu]; exact fun _ h => absurd h List.not_mem_nil), hhandled.2.2.2.1.trans hlu,
        hoff fun hn => by rw [hmask] at hn; exact Bool.noConfusion hn.2, by rw [hseq, advance_seq]⟩
    have hend := hsettled.takeHandovers hrow hmov w
    exact ⟨_, hexec, (still_takeHandovers _ _).trans (by rw [still_withLinks, hstill]), hend.off,
      hend.mode⟩
  · have hd := decideAckRow_unmoved (s := u) (p := p) (row := row) (r := res) (by
      rw [portHolds_advance, hslot]
      exact h)
    exact exec_answered (c := .ackRow w p) (w := w) rfl rfl hp hs ha hd

/-! ### WRITE_ROW -/

section WriteRow

variable {s : State} {p : Port} {row : Word} {ws : List Word} {r : RowRecord}

theorem standing_iff (m : Mode) : standing m = true ↔ m = .road ∨ m = .parked := by
  cases m <;> simp [standing]

theorem lockedAgainst_iff (p : Port) (s : State) :
    lockedAgainst p s = true ↔ ∃ q, s.lkt.lock = some q ∧ q ≠ p := by
  unfold lockedAgainst
  cases s.lkt.lock <;> simp

theorem rowOfArguments_some_iff (r : RowRecord) :
    rowOfArguments (row :: ws) = some r ↔ rowOfWords ws = some r ∧ rowValid row.toNat r = true := by
  unfold rowOfArguments
  rw [show (row :: ws).drop 1 = ws from rfl, show argAt (row :: ws) 0 = row.toNat from rfl]
  cases rowOfWords ws with
  | none => simp
  | some x =>
    dsimp only
    split
    · next h => simp only [Option.some.injEq, iff_self_and]; exact fun he => he ▸ h
    · next h =>
      simp only [Option.some.injEq, reduceCtorEq, false_iff, not_and]
      exact fun he => he ▸ h

/-- R63: the checks of WRITE_ROW on a valid record. -/
theorem decideWriteRow_valid (hright : portHolds s p .lockoutEdit = true)
    (hindex : 12 ≤ row.toNat ∧ row.toNat ≤ 23)
    (hr : rowOfArguments (row :: ws) = some r) :
    decideWriteRow p (row :: ws) s =
      if s.cfg.storeBusy then (s, .busy, [])
      else if lockedAgainst p s then (s, .locked, [])
      else if !standing s.seq.mode then (s, .condition, [])
      else (rewriteRow row.toNat r s, .ok, []) := by
  unfold decideWriteRow
  rw [show argAt (row :: ws) 0 = row.toNat from rfl, hr, if_neg (by simp [hright]),
    if_neg (by simp [within, hindex.1, hindex.2])]
  rfl

theorem decideWriteRow_invalid (hright : portHolds s p .lockoutEdit = true)
    (h : ¬((12 ≤ row.toNat ∧ row.toNat ≤ 23) ∧ ∃ r, rowOfArguments (row :: ws) = some r)) :
    decideWriteRow p (row :: ws) s = (s, .badArgument, []) := by
  unfold decideWriteRow
  rw [show argAt (row :: ws) 0 = row.toNat from rfl, if_neg (by simp [hright])]
  by_cases hindex : 12 ≤ row.toNat ∧ row.toNat ≤ 23
  · rw [if_neg (by simp [within, hindex.1, hindex.2])]
    cases hr : rowOfArguments (row :: ws) with
    | none => rfl
    | some r => exact absurd ⟨hindex, r, hr⟩ h
  · refine if_pos ?_
    simp only [within, Bool.not_eq_true', Bool.and_eq_false_iff, decide_eq_false_iff_not]
    omega

theorem rowRecord_set {c : WorkingConfig} (hc : c.rows.length = 12)
    (hindex : 12 ≤ row.toNat ∧ row.toNat ≤ 23) :
    rowRecord { c with rows := c.rows.set (row.toNat - 12) r } row.toNat = r := by
  unfold rowRecord
  rw [if_neg (by omega), ← replaceAt_eq_set, replaceAt_getD, if_pos ⟨rfl, by omega⟩]

end WriteRow

/-- Settles O55: the checks in their order, and the placement under the new record. -/
theorem writeRowReplacesOrRefuses : Obligations.WriteRowReplacesOrRefuses := by
  unfold Obligations.WriteRowReplacesOrRefuses
  intro w p s c row ws hp hs hc hlen ha u held index valid busy locked admitted
  have hvalid : ∀ r, rowOfArguments (row :: ws) = some r ↔
      rowOfWords ws = some r ∧ rowValid row.toNat r = true := rowOfArguments_some_iff
  have hlocked : lockedAgainst p u = true ↔ locked := by
    rw [lockedAgainst_iff, advance_lkt]
  have hadmitted : standing u.seq.mode = true ↔ admitted := by
    rw [advance_seq]
    exact standing_iff _
  have hbusy : u.cfg.storeBusy = true ↔ busy := by rw [advance_cfg]
  have hheld : portHolds u p .lockoutEdit = portHolds s p .lockoutEdit := portHolds_advance _ _ _ _
  refine ⟨?_, fun x h => ?_⟩
  · intro r hright hindex hr hrv hnb hnl had takesPart mayAct
    have hd : decideWriteRow p (row :: ws) u = (rewriteRow row.toNat r u, .ok, []) := by
      rw [decideWriteRow_valid (hheld.trans hright) hindex ((hvalid r).mpr ⟨hr, hrv⟩)]
      exact (if_neg (mt hbusy.mp hnb)).trans ((if_neg (mt hlocked.mp hnl)).trans
        (if_neg (by simp [hadmitted.mpr had])))
    obtain ⟨y, hy⟩ : ∃ y : State, y = { u with
        cfg := { s.cfg with working := some { c with rows := c.rows.set (row.toNat - 12) r } } } :=
      ⟨_, rfl⟩
    have hwith : withRow row.toNat r u = y := by
      rw [withRow, advance_cfg, hc, hy, Option.map_some, replaceAt_eq_set]
    have hlkty : y.lkt = s.lkt := by rw [hy]; exact advance_lkt _ _
    have hslot : ∀ j, rowSlot y j = rowSlot s j := fun j => by rw [rowSlot, hlkty, rowSlot]
    have htime : y.timeBase = u.timeBase := by rw [hy]
    have hrow : rowRecord (conf y) row.toNat = r := by rw [hy]; exact rowRecord_set hlen hindex
    have hcond : ∀ wide, condition y row.toNat r wide = condition s row.toNat r wide :=
      fun wide => condition_congr (by rw [hlkty]) (by rw [hy]; exact advance_cnv _ _)
        (by rw [hy]; exact advance_tnk _ _) (by rw [hy]; exact advance_spd _ _) _ _ _
    rw [rewriteRow_eq, hwith] at hd
    have hlinks : (handleRows (.place row.toNat) y).links = s.links :=
      (links_of_still (still_handleRows _ _)).trans (by rw [hy]; exact advance_links _ _)
    have hexec := exec_request_links (c := .writeRow w p) rfl rfl hp hs ha hd hlinks
    have hhandled := (handleRows_handled (.place row.toNat) y).withLinks
      (answered s p ⟨.writeRow, .ok, []⟩)
    obtain ⟨-, hsources, hmode, -⟩ := handleRows_lkt (.place row.toNat) y
    have hplaced := fun hl : y.lkt.rows.length = 24 => rowSlot_place (s := y) (by omega) hl hrow
    have hfollows : ∀ hl : y.lkt.rows.length = 24, ∀ j < 24, j ≠ row.toNat →
        Follows y (handleRows (.place row.toNat) y) j :=
      fun hl j hj hne => follows_handleRows _ y j hj hl fun m slot => atEvent_place_ne hne slot
    generalize handleRows (.place row.toNat) y = v at *
    simp only [hslot, hlkty, htime, hcond] at hplaced
    rw [hy] at hhandled
    refine ⟨_, hexec, hhandled, hmode.trans (by rw [hlkty]), hsources.trans (by rw [hlkty]),
      fun hl => ⟨fun j hj hne => ?_, hplaced hl⟩⟩
    exact ((hfollows (by rw [hlkty]; exact hl) j hj hne).of_rows (s := u)
      (by rw [hlkty, advance_lkt])).withLinks _
  · have hd : decideWriteRow p (row :: ws) u = (u, x, []) := by
      rcases h with ⟨hn, rfl⟩ | ⟨hright, hn, rfl⟩ | ⟨hright, hindex, ⟨r, hr⟩, hb, rfl⟩ |
        ⟨hright, hindex, ⟨r, hr⟩, hb, hl, rfl⟩ | ⟨hright, hindex, ⟨r, hr⟩, hb, hl, hm, rfl⟩
      · refine if_pos ?_
        rw [hheld]
        exact (Bool.not_eq_true' _).mpr (Bool.eq_false_of_not_eq_true hn)
      · refine decideWriteRow_invalid (hheld.trans hright) fun ⟨hi, r, hr⟩ => hn ⟨hi, r, ?_⟩
        exact (hvalid r).mp hr
      · rw [decideWriteRow_valid (hheld.trans hright) hindex ((hvalid r).mpr hr)]
        exact if_pos (hbusy.mpr hb)
      · rw [decideWriteRow_valid (hheld.trans hright) hindex ((hvalid r).mpr hr)]
        exact (if_neg (mt hbusy.mp hb)).trans (if_pos (hlocked.mpr hl))
      · rw [decideWriteRow_valid (hheld.trans hright) hindex ((hvalid r).mpr hr)]
        refine (if_neg (mt hbusy.mp hb)).trans ((if_neg (mt hlocked.mp hl)).trans (if_pos ?_))
        simpa using mt hadmitted.mp hm
    exact exec_answered (c := .writeRow w p) (w := w) rfl rfl hp hs ha hd

end Sys2Proof.Machine
end

section
/-! STORE_CONFIG and STORE_END. -/

namespace Sys2Proof.Machine

section Store

variable {s : State} {p : Port}

/-- R157, checks 4 and 5, passed. -/
theorem structuralGate_passed (hb : ¬s.cfg.storeBusy = true)
    (hm : s.seq.mode = .road ∨ s.seq.mode = .parked) : structuralGate s = none := by
  unfold structuralGate
  rw [if_neg hb, (standing_iff _).mpr hm]
  rfl

/-- R157, checks 4 and 5, one of them failing. -/
theorem structuralGate_failed {r : Result}
    (h : (s.cfg.storeBusy = true ∧ r = .busy) ∨
      (¬s.cfg.storeBusy = true ∧ ¬(s.seq.mode = .road ∨ s.seq.mode = .parked) ∧ r = .condition)) :
    structuralGate s = some r := by
  unfold structuralGate
  rcases h with ⟨hb, rfl⟩ | ⟨hb, hm, rfl⟩
  · rw [if_pos hb]
  · rw [if_neg hb, if_pos]
    rw [Bool.not_eq_true', ← Bool.not_eq_true, standing_iff]
    exact hm

theorem decideStoreConfig_taken (hright : portHolds s p .config = true)
    (hgate : structuralGate s = none) :
    decideStoreConfig p [] s = (beginStore s, .taken, []) := by
  unfold decideStoreConfig
  rw [if_neg (by simp [hright]), hgate]

theorem decideStoreConfig_refused {r : Result}
    (h : (¬portHolds s p .config = true ∧ r = .noRight) ∨
      (portHolds s p .config = true ∧ structuralGate s = some r)) :
    decideStoreConfig p [] s = (s, r, []) := by
  unfold decideStoreConfig
  rcases h with ⟨hright, rfl⟩ | ⟨hright, hgate⟩
  · exact if_pos (by simpa using hright)
  · rw [if_neg (by simp [hright]), hgate]
    rfl

/-- R161: the end of a store, as one record. -/
theorem finishStore_eq (flaws : List (Nat × Word)) (s : State) :
    let image := flaws.foldl flawImage s.cfg.image
    let invalid := !imageGood image
    finishStore flaws s = { s with
      cfg := { s.cfg with image := image, storeBusy := false, configInvalid := invalid }
      hand := s.hand ++ ((if invalid = s.cfg.configInvalid then []
          else [.arrival .cfg .configInvalid (some (bit invalid))]) ++
        [notice s .cfg .configStored (bit invalid) s.cfg.image.checksum .subscribers]) } := by
  intro image invalid
  unfold finishStore
  dsimp only
  split
  · rfl
  · simp only [post, arrive, handOver, List.append_assoc]
    rfl

theorem still_withCfg (x : CfgUnit) (hand : List Handover) :
    still { s with cfg := x, hand := hand } = { still s with cfg := x } := rfl

theorem imageGood_imageOf (c : WorkingConfig) : imageGood (imageOf c) = true := by
  simp [imageGood, imageOf]

end Store

/-- Settles O60: a store begins with the image whole, and its end says whether it still checks. -/
theorem storesWriteTheImage : Obligations.StoresWriteTheImage := by
  unfold Obligations.StoresWriteTheImage
  intro w p s c hp hc u held busy admitted
  have hbusy : u.cfg.storeBusy = true ↔ busy := by rw [advance_cfg]
  have hmode : (u.seq.mode = .road ∨ u.seq.mode = .parked) ↔ admitted := by rw [advance_seq]
  have hheld : portHolds u p .config = portHolds s p .config := portHolds_advance _ _ _ _
  refine ⟨fun ha hs => ⟨fun hright hnb had => ?_, fun r h => ?_⟩, ?_⟩
  · have hd := decideStoreConfig_taken (hheld.trans hright)
      (structuralGate_passed (mt hbusy.mp hnb) (hmode.mpr had))
    have hexec := exec_request_quiet (c := .storeConfig w p) (w := w) rfl rfl hp hs ha hd
      (advance_links _ _) ((advance_hand _ _).trans hs)
    have hconf : conf u = c := by rw [conf_advance, conf, hc]; rfl
    rw [beginStore, hconf, advance_cfg] at hexec
    exact hexec
  · have hd : decideStoreConfig p [] u = (u, r, []) := by
      refine decideStoreConfig_refused ?_
      rcases h with ⟨hn, hr⟩ | ⟨hright, hb, hr⟩ | ⟨hright, hb, hm, hr⟩
      · exact .inl ⟨by rw [hheld]; exact hn, hr⟩
      · exact .inr ⟨hheld.trans hright, structuralGate_failed (.inl ⟨hbusy.mpr hb, hr⟩)⟩
      · exact .inr ⟨hheld.trans hright,
          structuralGate_failed (.inr ⟨mt hbusy.mp hb, mt hmode.mp hm, hr⟩)⟩
    exact exec_answered (c := .storeConfig w p) (w := w) rfl rfl hp hs ha hd
  · intro flaws image invalid
    obtain ⟨v, hstill, hexec, hquiet⟩ :=
      exec_running_pass (c := .storeEnd w flaws) (w := w) rfl rfl hp
    have hcfg : v.cfg = s.cfg := (cfg_of_still hstill).trans (advance_cfg _ _)
    refine ⟨fun hb => ?_, fun hb hs => ?_⟩
    · have hv : v.cfg.storeBusy = true := by rw [hcfg]; exact hb
      rw [if_pos hv, finishStore_eq, hcfg] at hexec
      refine ⟨⟨_, hexec, ?_, ?_⟩, fun hs => ?_⟩
      · rw [still_takeHandovers, still_withCfg, hstill]
      · intro hflaws himage
        rw [cfg_of_still (still_takeHandovers _ _)]
        dsimp only
        rw [hflaws, List.foldl_nil, himage, imageGood_imageOf]
        rfl
      · rw [hquiet hs, advance_hand, hs] at hexec
        exact hexec
    · have hv : ¬v.cfg.storeBusy = true := by rw [hcfg]; exact hb
      rw [if_neg hv, hquiet hs, takeHandovers_of_hand_nil w ((advance_hand _ _).trans hs)] at hexec
      exact hexec

end Sys2Proof.Machine
end

section
/-! WRITE_CONFIG of a tuning item. -/

namespace Sys2Proof.Machine

/-! ### A request, whatever is under way -/

theorem exec_request_pass {c : Instr} {w : When} {p : Port} {kind : RequestKind}
    {args : List Word} {decide_ : List Word → State → State × Result × List Word} {s : State}
    (hc : effectOf c = whenRunning (serve p kind decide_)) (hw : whenOf c = w)
    (hp : s.phase = .running) (ha : askedOf s p kind = some args) {u : State} {r : Result}
    {data : List Word} (hd : decide_ args (pass w.dt s) = (u, r, data)) (hl : u.links = s.links) :
    exec c s = .next (takeHandovers w { u with links := answered s p ⟨kind, r, data⟩ }) := by
  have hstill := still_pass w.dt s
  have hrun : (pass w.dt s).phase = .running :=
    (congrArg Still.phase hstill).trans ((advance_phase _ _).trans hp)
  have hlinks : (pass w.dt s).links = s.links := (links_of_still hstill).trans (advance_links _ _)
  rw [exec_next_eq, hc, hw, whenRunning_running _ hrun,
    serve_asked _ (by rw [askedOf, hlinks]; exact ha), hd, fixAnswer_eq, answered, hl, answered]

/-! ### What a tuning write does -/

section Tuned

variable {s : State} {new : WorkingConfig}

theorem tnkTakesFull_eq (s : State) :
    tnkTakesFull s = { s with tnk := { s.tnk with
      fill := s.tnk.fill.map fun f =>
        { f with target := min f.target (conf s).tank0.full } } } := by
  unfold tnkTakesFull
  split
  · next h => rw [h, Option.map_none, ← h]
  · next f h => rw [h, Option.map_some]

/-- R157: a write that leaves the report interval and the rights as they were. -/
theorem applyWrite_tuned (hi : new.rates.reportInterval = (conf s).rates.reportInterval)
    (hr : new.rights = (conf s).rights) :
    applyWrite new s =
      let s1 : State := { s with cfg := { s.cfg with working := some new } }
      let s2 := if new.gains.ceiling = (conf s).gains.ceiling then s1 else govTakesCeiling s1
      if new.tank0.full = (conf s).tank0.full then s2 else tnkTakesFull s2 := by
  unfold applyWrite
  simp only [hi, hr, if_pos]

/-- GOV's record after a write that gives C_cfg (R79). -/
def ceilingGov (s : State) (ceiling : Nat) : GovUnit :=
  let intake := if s.gov.watch = .low then s.gov.cIntake else ceiling
  let least := if holdsBlock s.gov.blocks .throttle then 0 else min ceiling intake
  { s.gov with cIntake := intake, c := least, d := min s.gov.d least }

/-- TNK's record after a write that gives tank 0's FULL (R99). -/
def fullTnk (s : State) (full : Nat) : TnkUnit :=
  { s.tnk with fill := s.tnk.fill.map fun f => { f with target := min f.target full } }

/-- R71: where GOV's record stands. -/
theorem governed_refl (s : State) : Governed s s s.gov [] [] := by
  refine ⟨?_, fun _ => rfl, fun h => absurd rfl h⟩
  simp

theorem Governed.withTnk {t : State} {g : GovUnit} (h : Governed s t g [] []) (x : TnkUnit)
    (l : PerPort Link) :
    Governed { s with tnk := x, links := l } { t with tnk := x, links := l } g [] [] := by
  obtain ⟨heq, hstands, hcommanded⟩ := h
  exact ⟨congrArg (fun y : State => { y with tnk := x, links := l }) heq, hstands, hcommanded⟩

/-- R79, R99, R157: a tuning write, and what GOV and TNK do at it. -/
theorem governed_applyWrite (hi : new.rates.reportInterval = (conf s).rates.reportInterval)
    (hr : new.rights = (conf s).rights) (l : PerPort Link) :
    Governed { s with
        cfg := { s.cfg with working := some new }
        tnk := if new.tank0.full = (conf s).tank0.full then s.tnk else fullTnk s new.tank0.full
        links := l }
      { applyWrite new s with links := l }
      (if new.gains.ceiling = (conf s).gains.ceiling then s.gov else ceilingGov s new.gains.ceiling)
      [] [] := by
  obtain ⟨s1, hs1⟩ : ∃ s1 : State, s1 = { s with cfg := { s.cfg with working := some new } } :=
    ⟨_, rfl⟩
  obtain ⟨s2, hs2⟩ : ∃ s2 : State, s2 =
    if new.gains.ceiling = (conf s).gains.ceiling then s1 else govTakesCeiling s1 := ⟨_, rfl⟩
  have hgov : Governed s1 s2 (if new.gains.ceiling = (conf s).gains.ceiling then s.gov
      else ceilingGov s new.gains.ceiling) [] [] := by
    rw [hs2]
    split
    · rw [show s.gov = s1.gov by rw [hs1]]
      exact governed_refl s1
    · have h := govTakesCeiling_governed s1
      rw [show conf s1 = new by rw [hs1]; rfl, show s1.gov = s.gov by rw [hs1]] at h
      exact h
  have htnk : s2.tnk = s.tnk := (congrArg State.tnk hgov.1).trans (by rw [hs1])
  have hconf : conf s2 = new := (conf_of_cfg (congrArg State.cfg hgov.1)).trans (by rw [hs1]; rfl)
  have happly : applyWrite new s = { s2 with tnk :=
      if new.tank0.full = (conf s).tank0.full then s.tnk else fullTnk s new.tank0.full } := by
    rw [applyWrite_tuned hi hr]
    dsimp only
    rw [← hs1, ← hs2]
    split
    · rw [← htnk]
    · rw [tnkTakesFull_eq, hconf, htnk]
      rfl
  rw [happly]
  have h := hgov.withTnk
    (if new.tank0.full = (conf s).tank0.full then s.tnk else fullTnk s new.tank0.full) l
  rw [hs1] at h
  exact h

theorem still_govTakesCeiling (s : State) : still (govTakesCeiling s) = still s := by
  unfold govTakesCeiling
  rw [still_applyCeiling]
  split <;> rfl

theorem still_tnkTakesFull (s : State) : still (tnkTakesFull s) = still s := by
  rw [tnkTakesFull_eq]
  rfl

theorem still_applyWrite_tuned (hi : new.rates.reportInterval = (conf s).rates.reportInterval)
    (hr : new.rights = (conf s).rights) :
    still (applyWrite new s) = { still s with cfg := { s.cfg with working := some new } } := by
  obtain ⟨s1, hs1⟩ : ∃ s1 : State, s1 = { s with cfg := { s.cfg with working := some new } } :=
    ⟨_, rfl⟩
  have hbase : still s1 = { still s with cfg := { s.cfg with working := some new } } := by
    rw [hs1]
    rfl
  have hgov : still (if new.gains.ceiling = (conf s).gains.ceiling then s1
      else govTakesCeiling s1) = still s1 := by
    split
    · rfl
    · exact still_govTakesCeiling s1
  rw [applyWrite_tuned hi hr, ← hbase]
  dsimp only
  rw [← hs1]
  by_cases hfull : new.tank0.full = (conf s).tank0.full
  · rw [if_pos hfull]
    exact hgov
  · rw [if_neg hfull, still_tnkTakesFull]
    exact hgov

/-! ### The checks -/

variable {p : Port} {item part : Word} {ws : List Word}

/-- R157: a tuning write that passes its checks. -/
theorem decideWriteConfig_tuned (hright : portHolds s p .config = true)
    (hb : s.cfg.storeBusy = false) (hitem : item.toNat ≤ 5)
    (hpart : part.toNat < partCount item.toNat) :
    decideWriteConfig p (item :: part :: ws) s =
      (writeThrough (tunedBy (conf s) item.toNat part.toNat ws).1 s,
        tuningResult (tunedBy (conf s) item.toNat part.toNat ws).2, []) := by
  unfold decideWriteConfig
  rw [show argAt (item :: part :: ws) 0 = item.toNat from rfl,
    show argAt (item :: part :: ws) 1 = part.toNat from rfl,
    show (item :: part :: ws).drop 2 = ws from rfl]
  dsimp only
  rw [if_neg (by simp [hright]), if_neg (by omega), if_pos (by simp [structuralItem]; omega),
    if_neg (by simp [hb])]

/-- R157: what the first three checks refuse of an item that is not multi-part. -/
theorem decideWriteConfig_refused (hmulti : multiPartItem item.toNat = false) {r : Result}
    (h : (portHolds s p .config = false ∧ r = .noRight) ∨
      (portHolds s p .config = true ∧ partCount item.toNat ≤ part.toNat ∧ r = .badArgument) ∨
      (portHolds s p .config = true ∧ item.toNat ≤ 5 ∧ part.toNat < partCount item.toNat ∧
        s.cfg.storeBusy = true ∧ r = .busy)) :
    decideWriteConfig p (item :: part :: ws) s = (s, r, []) := by
  have hrefuse : ∀ r : Result, refuseWrite p item.toNat r s = (s, r, []) := fun r => by
    rw [refuseWrite, hmulti]
    rfl
  unfold decideWriteConfig
  rw [show argAt (item :: part :: ws) 0 = item.toNat from rfl,
    show argAt (item :: part :: ws) 1 = part.toNat from rfl]
  dsimp only
  rcases h with ⟨hright, rfl⟩ | ⟨hright, hpart, rfl⟩ | ⟨hright, hitem, hpart, hb, rfl⟩
  · rw [if_pos (by simp [hright]), hrefuse]
  · rw [if_neg (by simp [hright]), if_pos hpart, hrefuse]
  · rw [if_neg (by simp [hright]), if_neg (by omega), if_pos (by simp [structuralItem]; omega),
      if_pos hb]
    rfl

end Tuned

/-! ### Clamping -/

theorem clampNat_eq {lo hi : Nat} (h : lo ≤ hi) (x : Nat) :
    clampNat lo hi x = max lo (min hi x) := by
  unfold clampNat
  split_ifs <;> omega

theorem clampNat_eq_self_iff {lo hi : Nat} (h : lo ≤ hi) (x : Nat) :
    clampNat lo hi x = x ↔ lo ≤ x ∧ x ≤ hi := by
  rw [clampNat_eq h]
  omega


theorem clampNat_zero (hi x : Nat) : clampNat 0 hi x = min hi x := by
  rw [clampNat_eq (Nat.zero_le hi), Nat.zero_max]

theorem clampInt_eq_self_iff {lo hi : Int} (h : lo ≤ hi) (x : Int) :
    clampInt lo hi x = x ↔ lo ≤ x ∧ x ≤ hi := by
  rw [clampInt_eq h]
  omega

theorem clampGains_eq_self_iff (g : Gains) : clampGains g = g ↔
    g.kpPressure ≤ 255 ∧ g.kiPressure ≤ 255 ∧ g.kpSpeed ≤ 255 ∧ g.kiSpeed ≤ 255 ∧
      1 ≤ g.slew ∧ g.slew ≤ 100 ∧ 100 ≤ g.ceiling ∧ g.ceiling ≤ 1000 := by
  cases g
  simp [clampGains, clampNat_eq_self_iff, and_assoc]

theorem clampGovDefaults_eq_self_iff (g : GovDefaults) : clampGovDefaults g = g ↔
    200 ≤ g.pressure ∧ g.pressure ≤ 2400 ∧ 600 ≤ g.speed ∧ g.speed ≤ 3000 ∧
      -60 ≤ g.floor ∧ g.floor ≤ 200 ∧ 5 ≤ g.hysteresis ∧ g.hysteresis ≤ 100 := by
  cases g
  simp [clampGovDefaults, clampInt_eq_self_iff, clampNat_eq_self_iff, and_assoc]

theorem clampFixedRows_eq_self_iff (f : FixedRowItems) : clampFixedRows f = f ↔
    10 ≤ f.rollLimit ∧ f.rollLimit ≤ 150 ∧ 1000 ≤ f.pMax ∧ f.pMax ≤ 3500 ∧ f.hold2 ≤ 60000 ∧
      f.hold3 ≤ 60000 ∧ f.hold6 ≤ 60000 ∧ f.hold9 ≤ 60000 ∧ f.hold10 ≤ 60000 := by
  cases f
  simp [clampFixedRows, clampNat_eq_self_iff, and_assoc]

theorem clampTolerances_eq_self_iff (t : Tolerances) : clampTolerances t = t ↔
    10 ≤ t.speed ∧ t.speed ≤ 100 ∧ 10 ≤ t.gauge ∧ t.gauge ≤ 200 := by
  cases t
  simp [clampTolerances, clampNat_eq_self_iff, and_assoc]

theorem thresholdsValid_iff (t : TankThresholds) : thresholdsValid t = true ↔
    t.empty < t.low ∧ t.low < t.full ∧ t.full ≤ 65535 ∧ t.hv ≤ 1000 := by
  simp [thresholdsValid, within_iff, and_assoc]

/-- R99, R157: the thresholds in word order, each against those taken before it. -/
theorem clampThresholds_eq {old t : TankThresholds} (h : thresholdsValid old = true)
    (ht : t.full ≤ 65535) :
    clampThresholds old t =
      ⟨min t.empty (old.low - 1),
        min (old.full - 1) (max (min t.empty (old.low - 1) + 1) t.low),
        max (min (old.full - 1) (max (min t.empty (old.low - 1) + 1) t.low) + 1) t.full,
        min 1000 t.hv⟩ := by
  obtain ⟨h1, h2, h3, -⟩ := (thresholdsValid_iff old).mp h
  unfold clampThresholds
  dsimp only
  have hempty : clampNat 0 (old.low - 1) t.empty = min t.empty (old.low - 1) := by
    rw [clampNat_zero, Nat.min_comm]
  have hlow : ∀ e ≤ old.low - 1,
      clampNat (e + 1) (old.full - 1) t.low = min (old.full - 1) (max (e + 1) t.low) :=
    fun e he => by rw [clampNat_eq (by omega)]; omega
  have hfull : ∀ l ≤ old.full - 1, clampNat (l + 1) 65535 t.full = max (l + 1) t.full :=
    fun l hl => by rw [clampNat_eq (by omega)]; omega
  rw [hempty, hlow _ (Nat.min_le_right _ _), hfull _ (Nat.min_le_left _ _), clampNat_zero]

theorem valueAt_lt (ws : List Word) (n : Nat) : valueAt ws n < 65536 := (ws.getD n 0).isLt

/-! ### A tuning write as a step -/

section TuningStep

variable {w : When} {p : Port} {s : State} {c new : WorkingConfig} {item part : Word}
  {ws : List Word}

theorem conf_of_working (hc : s.cfg.working = some c) : conf s = c := by
  rw [conf, hc]
  rfl

theorem exec_tuned (hp : s.phase = .running) (hc : s.cfg.working = some c)
    (ha : askedOf s p .writeConfig = some (item :: part :: ws))
    (hright : portHolds s p .config = true) (hb : s.cfg.storeBusy = false)
    (hitem : item.toNat ≤ 5) (hpart : part.toNat < partCount item.toNat) {clamped : Bool}
    (htuned : tunedBy c item.toNat part.toNat ws = (new, clamped))
    (hi : new.rates = c.rates) (hr : new.rights = c.rights) :
    let u := advance w.dt s
    let links := answered s p ⟨.writeConfig, tuningResult clamped, []⟩
    (∃ t, exec (.writeConfig w p) s = .next t ∧
      still t = { still u with
        cfg := { s.cfg with working := some new }, links := links }) ∧
    (s.hand = [] → ∃ x, exec (.writeConfig w p) s = .next (takeHandovers w x) ∧
      Governed { u with
        cfg := { s.cfg with working := some new }
        tnk := if new.tank0.full = c.tank0.full then s.tnk else fullTnk s new.tank0.full
        links := links } x
        (if new.gains.ceiling = c.gains.ceiling then s.gov else ceilingGov s new.gains.ceiling)
        [] []) := by
  intro u links
  have hstill := still_pass w.dt s
  have hcfg : (pass w.dt s).cfg = s.cfg := (cfg_of_still hstill).trans (advance_cfg _ _)
  have hconf : conf (pass w.dt s) = c := conf_of_working (by rw [hcfg]; exact hc)
  have hd := decideWriteConfig_tuned (s := pass w.dt s) (p := p) (ws := ws)
    (by rw [portHolds_of_still hstill, portHolds_advance]; exact hright)
    (by rw [hcfg]; exact hb) hitem hpart
  rw [hconf, htuned] at hd
  dsimp only at hd
  have hwritten : still (writeThrough new (pass w.dt s)) =
      { still u with cfg := { s.cfg with working := some new } } := by
    unfold writeThrough
    split
    · next h =>
      rw [h, hconf, ← hc, hstill, ← advance_cfg w.dt s]
      rfl
    · rw [still_applyWrite_tuned (by rw [hi, hconf]) (by rw [hr, hconf]), hcfg, hstill]
  have hlinks : (writeThrough new (pass w.dt s)).links = s.links :=
    (congrArg Still.links hwritten).trans (advance_links _ _)
  have hexec := exec_request_pass (c := .writeConfig w p) (w := w) rfl rfl hp ha hd hlinks
  refine ⟨⟨_, hexec, ?_⟩, fun hs => ⟨_, hexec, ?_⟩⟩
  · rw [still_takeHandovers, still_withLinks, hwritten]
  · rw [pass_of_hand_nil _ hs] at hconf ⊢
    by_cases h : new = conf u
    · have hn : new = c := h.trans hconf
      rw [writeThrough, if_pos h, if_pos (by rw [hn]), if_pos (by rw [hn]), hn, ← hc,
        ← advance_cfg w.dt s, ← advance_tnk w.dt s, ← advance_gov w.dt s]
      exact governed_refl { u with links := links }
    · have hg := governed_applyWrite (s := u) (new := new) (by rw [hi, hconf])
        (by rw [hr, hconf]) links
      have hfull : ∀ n, fullTnk u n = fullTnk s n := fun n => by
        rw [fullTnk, advance_tnk, fullTnk]
      have hceiling : ∀ n, ceilingGov u n = ceilingGov s n := fun n => by
        rw [ceilingGov, advance_gov, ceilingGov]
      rw [hconf, hfull, hceiling, advance_cfg, advance_tnk] at hg
      rw [writeThrough, if_neg h, ← advance_gov w.dt s]
      exact hg

end TuningStep

theorem multiPartItem_of_ne {item : Word} (h9 : item ≠ 9) (h11 : item ≠ 11) (h12 : item ≠ 12) :
    multiPartItem item.toNat = false := by
  have hne : ∀ x : Word, item ≠ x → item.toNat ≠ x.toNat :=
    fun x h he => h (BitVec.eq_of_toNat_eq he)
  have h1 : item.toNat ≠ 9 := hne 9 h9
  have h2 : item.toNat ≠ 11 := hne 11 h11
  have h3 : item.toNat ≠ 12 := hne 12 h12
  simp [multiPartItem, h1, h2, h3]

theorem partCount_of_gt {item : Nat} (h : 14 < item) : partCount item = 0 := by
  unfold partCount
  split
  case h_6 => rw [if_neg (by omega)]
  all_goals omega

theorem thresholdsOfWords_full (ws : List Word) : (thresholdsOfWords ws).full ≤ 65535 :=
  Nat.le_of_lt_succ (valueAt_lt ws 2)

/-- Settles O57: each tuning item by its clamp; GOV and TNK act on C_cfg and on FULL alone. -/
theorem tuningWritesAreClampedInOrder : Obligations.TuningWritesAreClampedInOrder := by
  unfold Obligations.TuningWritesAreClampedInOrder
  intro w p s c item part ws hp hc hvalid ha u v clamp admitted taken thresholds written floor
  obtain ⟨-, -, -, htank0, htank1, -⟩ := (configValid_iff c).mp hvalid
  have htaken : ∀ (i k : Nat) (new : WorkingConfig) (clamped : Bool) (asWritten : Prop),
      i ≤ 5 → k < partCount i → tunedBy c i k ws = (new, clamped) →
      (clamped = false ↔ asWritten) → new.rates = c.rates → new.rights = c.rights →
      taken i k new asWritten := by
    intro i k new clamped asWritten hi hk htuned hwritten hrates hrights hadm hitem hpart
    subst hitem hpart
    obtain ⟨ht, hx⟩ := exec_tuned hp hc ha hadm.1 hadm.2 hi hk htuned hrates hrights
    refine ⟨tuningResult clamped, fun h => ?_, fun h => ?_, ht, hx⟩
    · rw [hwritten.mpr h]
      rfl
    · rw [show clamped = true from Bool.of_not_eq_false (mt hwritten.mp h)]
      rfl
  have hthresholds : ∀ old : TankThresholds, thresholdsValid old = true →
      clampThresholds old (thresholdsOfWords ws) = thresholds old := fun old h =>
    clampThresholds_eq h (thresholdsOfWords_full ws)
  have hsame : ∀ old : TankThresholds, thresholdsValid old = true →
      ((clampThresholds old (thresholdsOfWords ws) != thresholdsOfWords ws) = false ↔
        written (thresholds old)) := fun old h => by
    rw [bne_eq_false_iff_eq, hthresholds old h, thresholdsOfWords, TankThresholds.mk.injEq]
  refine ⟨?_, ?_, ?_, ?_, ?_, ?_, ?_, ?_⟩
  · refine htaken 1 0 _ (clampGains (gainsOfWords ws) != gainsOfWords ws) _ (by decide) (by decide)
      (Prod.ext (congrArg (fun g => { c with gains := g }) ?_) rfl) ?_ rfl rfl
    · simp [clampGains, gainsOfWords, clampNat_eq, v, clamp]
    · rw [bne_eq_false_iff_eq, clampGains_eq_self_iff]
      rfl
  · refine htaken 2 0 _ (clampGovDefaults (govDefaultsOfWords ws) != govDefaultsOfWords ws) _
      (by decide) (by decide) (Prod.ext (congrArg (fun g => { c with govDefaults := g }) ?_) rfl)
      ?_ rfl rfl
    · simp [clampGovDefaults, govDefaultsOfWords, clampNat_eq, clampInt_eq, v, clamp, floor]
    · rw [bne_eq_false_iff_eq, clampGovDefaults_eq_self_iff]
      rfl
  · refine htaken 3 0 _ (clampFixedRows (fixedRowItemsOfWords ws) != fixedRowItemsOfWords ws) _
      (by decide) (by decide) (Prod.ext (congrArg (fun f => { c with fixedRows := f }) ?_) rfl)
      ?_ rfl rfl
    · simp [clampFixedRows, fixedRowItemsOfWords, clampNat_eq, v, clamp]
    · rw [bne_eq_false_iff_eq, clampFixedRows_eq_self_iff]
      rfl
  · exact htaken 4 0 _ _ _ (by decide) (by decide)
      (Prod.ext (congrArg (fun t => { c with tank0 := t }) (hthresholds _ htank0)) rfl)
      (hsame _ htank0) rfl rfl
  · exact htaken 4 1 _ _ _ (by decide) (by decide)
      (Prod.ext (congrArg (fun t => { c with tank1 := t }) (hthresholds _ htank1)) rfl)
      (hsame _ htank1) rfl rfl
  · refine htaken 5 0 _ (clampTolerances (tolerancesOfWords ws) != tolerancesOfWords ws) _
      (by decide) (by decide) (Prod.ext (congrArg (fun t => { c with tolerances := t }) ?_) rfl)
      ?_ rfl rfl
    · simp [clampTolerances, tolerancesOfWords, clampNat_eq, v, clamp]
    · rw [bne_eq_false_iff_eq, clampTolerances_eq_self_iff]
      rfl
  · intro old hold
    have hv : thresholdsValid old = true := by
      rcases hold with rfl | rfl
      · exact htank0
      · exact htank1
    obtain ⟨h1, h2, -⟩ := (thresholdsValid_iff old).mp hv
    simp only [thresholds]
    omega
  · intro r hs h
    have hd : decideWriteConfig p (item :: part :: ws) u = (u, r, []) := by
      have hheld : portHolds u p .config = portHolds s p .config := portHolds_advance _ _ _ _
      have hbusy : u.cfg.storeBusy = s.cfg.storeBusy := by rw [advance_cfg]
      rcases h with ⟨hright, h9, h11, h12, hr⟩ | ⟨hright, h9, h11, h12, hpart, hr⟩ |
        ⟨hright, hitem, hpart, hb, hr⟩
      · exact decideWriteConfig_refused (multiPartItem_of_ne h9 h11 h12)
          (.inl ⟨hheld.trans hright, hr⟩)
      · refine decideWriteConfig_refused (multiPartItem_of_ne h9 h11 h12)
          (.inr (.inl ⟨hheld.trans hright, ?_, hr⟩))
        rcases hpart with rfl | hpart | hpart
        · exact Nat.zero_le _
        · rw [partCount_of_gt hpart]
          exact Nat.zero_le _
        · exact hpart
      · refine decideWriteConfig_refused ?_
          (.inr (.inr ⟨hheld.trans hright, hitem, hpart, hbusy.trans hb, hr⟩))
        simp [multiPartItem]
        omega
    exact exec_answered (c := .writeConfig w p) (w := w) rfl rfl hp hs ha hd

end Sys2Proof.Machine
end

section
/-! WRITE_CONFIG of a structural item of single parts. -/

namespace Sys2Proof.Machine

/-! ### What a structural write does -/

section Structural

variable {s : State} {new c : WorkingConfig} {x : SpdUnit}

/-- R116: what SPD does at a write that makes `new` of `old`. -/
def spdTakesWrite (new old : WorkingConfig) (s : State) : State :=
  let paced := if new.rates.reportInterval = old.rates.reportInterval then s
    else spdTakesInterval s
  if speedSourceOf new.rights = speedSourceOf old.rights then paced else spdTakesMove paced

theorem applyWrite_structural (hg : new.gains.ceiling = (conf s).gains.ceiling)
    (hf : new.tank0.full = (conf s).tank0.full) :
    applyWrite new s =
      if new.rights = (conf s).rights then
        spdTakesWrite new (conf s) { s with cfg := { s.cfg with working := some new } }
      else freeLostLock
        (spdTakesWrite new (conf s) { s with cfg := { s.cfg with working := some new } }) := by
  unfold applyWrite spdTakesWrite
  simp only [hg, hf, if_pos]

/-- R67: the lock after the rights have been written. -/
theorem freeLostLock_eq (s : State) :
    freeLostLock s = { s with lkt := { s.lkt with
      lock := s.lkt.lock.filter fun q => holdsRight (portGet (conf s).rights q) .config } } := by
  unfold freeLostLock portHolds
  split
  · next h => rw [h, Option.filter_none, ← h]
  · next q h =>
    split
    · next hq => rw [h, Option.filter_some, if_pos hq, ← h]
    · next hq => rw [h, Option.filter_some, if_neg hq]

/-- What a structural write makes of the part, SPD's record becoming `x`. -/
def writtenState (s : State) (new c : WorkingConfig) (x : SpdUnit) : State :=
  { s with
    spd := x
    lkt := { s.lkt with lock :=
      if new.rights = c.rights then s.lkt.lock
      else s.lkt.lock.filter (fun q => holdsRight (portGet new.rights q) .config) }
    cfg := { s.cfg with working := some new }
    hand := s.hand ++ speedHandovers s false s.spd x }

/-- SPD's record and what it hands on are as for `x`. -/
def SpdWritten (s : State) (new c : WorkingConfig) (x : SpdUnit) : Prop :=
  spdTakesWrite new c { s with cfg := { s.cfg with working := some new } } = { s with
    spd := x
    cfg := { s.cfg with working := some new }
    hand := s.hand ++ speedHandovers s false s.spd x }

theorem speedHandovers_same (s : State) {u v : SpdUnit} (hq : quality v = quality u)
    (hv : v.value = u.value) (ht : v.transmission = u.transmission) :
    speedHandovers s false u v = [] := by
  simp [speedHandovers, hq, hv, ht]

/-- R157: a structural write, whether it changes a value or not. -/
theorem writeThrough_structural (hc : s.cfg.working = some c)
    (hg : new.gains.ceiling = c.gains.ceiling) (hf : new.tank0.full = c.tank0.full)
    (hx : SpdWritten s new c x) : writeThrough new s = writtenState s new c x := by
  have hconf : conf s = c := conf_of_working hc
  unfold writeThrough
  by_cases hn : new = conf s
  · rw [if_pos hn]
    have hnew : new = c := hn.trans hconf
    have hsame : spdTakesWrite new c { s with cfg := { s.cfg with working := some new } } = s := by
      rw [hnew, ← hc]
      unfold spdTakesWrite
      rw [if_pos rfl, if_pos rfl]
    rw [SpdWritten, hsame] at hx
    rw [writtenState, if_pos (by rw [hnew])]
    exact hx
  · rw [if_neg hn, applyWrite_structural (by rw [hconf]; exact hg) (by rw [hconf]; exact hf), hconf,
      hx, writtenState]
    split
    · rfl
    · rw [freeLostLock_eq]
      rfl

theorem spdWritten_same (hi : new.rates = c.rates) (hr : new.rights = c.rights) :
    SpdWritten s new c s.spd := by
  unfold SpdWritten spdTakesWrite
  rw [hi, hr, if_pos rfl, if_pos rfl, speedHandovers_same s rfl rfl rfl, List.append_nil]

/-- R114: SPD's record once the reports have become stale. -/
def staleSpd (u : SpdUnit) : SpdUnit :=
  { u with
    freshness := .stale, staleTimer := none, disagreement := .agree, disTimer := none
    value := u.measured, transmission := .unknown }

theorem becomeStale_eq (s : State) :
    becomeStale s = { s with
      spd := staleSpd s.spd
      hand := s.hand ++ speedHandovers s false s.spd (staleSpd s.spd) } := by
  rw [becomeStale, recomputeSpeed_eq, recomputed_stale rfl]
  rfl

theorem spdTakesInterval_kept (h : s.spd.freshness = .stale ∨ s.spd.report = none) :
    spdTakesInterval s = s := by
  unfold spdTakesInterval
  rcases h with h | h <;> rw [h]
  cases s.spd.freshness <;> rfl

theorem spdTakesInterval_fresh {r : SpeedReport} (hf : s.spd.freshness = .fresh)
    (hr : s.spd.report = some r) :
    spdTakesInterval s =
      if 3 * (conf s).rates.reportInterval < sinceCount s.timeBase r.arrival then becomeStale s
      else { s with spd := { s.spd with
        staleTimer := some ⟨r.arrival, 3 * (conf s).rates.reportInterval⟩ } } := by
  unfold spdTakesInterval
  rw [hf, hr]

/-- R116: a write of the report interval. -/
theorem spdWritten_paced (hr : new.rights = c.rights) :
    ∃ x, SpdWritten s new c x ∧
      (new.rates.reportInterval = c.rates.reportInterval ∨ s.spd.freshness = .stale → x = s.spd) ∧
      ∀ r, new.rates.reportInterval ≠ c.rates.reportInterval → s.spd.freshness = .fresh →
        s.spd.report = some r →
        (3 * new.rates.reportInterval < sinceCount s.timeBase r.arrival → x = staleSpd s.spd) ∧
        (sinceCount s.timeBase r.arrival ≤ 3 * new.rates.reportInterval →
          x = { s.spd with staleTimer := some ⟨r.arrival, 3 * new.rates.reportInterval⟩ }) := by
  obtain ⟨s1, hs1⟩ : ∃ s1 : State, s1 = { s with cfg := { s.cfg with working := some new } } :=
    ⟨_, rfl⟩
  have hspd : s1.spd = s.spd := by rw [hs1]
  have hconf : conf s1 = new := by rw [hs1]; rfl
  have htime : s1.timeBase = s.timeBase := by rw [hs1]
  have hkept : spdTakesWrite new c s1 = s1 → SpdWritten s new c s.spd := fun h => by
    rw [SpdWritten, ← hs1, h, speedHandovers_same s rfl rfl rfl, List.append_nil, hs1]
  have hwrite : spdTakesWrite new c s1 =
      if new.rates.reportInterval = c.rates.reportInterval then s1 else spdTakesInterval s1 := by
    unfold spdTakesWrite
    rw [hr, if_pos rfl]
  by_cases hi : new.rates.reportInterval = c.rates.reportInterval
  · rw [if_pos hi] at hwrite
    exact ⟨s.spd, hkept hwrite, fun _ => rfl, fun _ hn => absurd hi hn⟩
  rw [if_neg hi] at hwrite
  by_cases hstale : s.spd.freshness = .stale ∨ s.spd.report = none
  · rw [spdTakesInterval_kept (by rw [hspd]; exact hstale)] at hwrite
    refine ⟨s.spd, hkept hwrite, fun _ => rfl, fun r _ hf hrep => ?_⟩
    rcases hstale with h | h
    · cases hf.symm.trans h
    · cases hrep.symm.trans h
  obtain ⟨hfresh, hrep⟩ := not_or.mp hstale
  obtain ⟨r, hr⟩ := Option.ne_none_iff_exists'.mp hrep
  have hf : s.spd.freshness = .fresh := by
    cases h : s.spd.freshness with
    | fresh => rfl
    | stale => exact absurd h hfresh
  rw [spdTakesInterval_fresh (by rw [hspd]; exact hf) (by rw [hspd]; exact hr), hconf, htime]
    at hwrite
  have hno : ¬(new.rates.reportInterval = c.rates.reportInterval ∨ s.spd.freshness = .stale) :=
    fun h => h.elim hi hfresh
  have hone : ∀ r', s.spd.report = some r' → r' = r := fun r' hr' =>
    Option.some.inj (hr'.symm.trans hr)
  split at hwrite
  · next hold =>
    rw [becomeStale_eq, hspd] at hwrite
    refine ⟨staleSpd s.spd, ?_, fun h => absurd h hno, fun r' _ _ hr' => ?_⟩
    · rw [SpdWritten, ← hs1, hwrite, hs1]
      rfl
    · rw [hone r' hr']
      exact ⟨fun _ => rfl, fun hle => absurd hold (Nat.not_lt.mpr hle)⟩
  · next hold =>
    obtain ⟨x, hx⟩ : ∃ x : SpdUnit,
      x = { s.spd with staleTimer := some ⟨r.arrival, 3 * new.rates.reportInterval⟩ } := ⟨_, rfl⟩
    have hnothing : speedHandovers s false s.spd x = [] := by
      rw [hx]
      exact speedHandovers_same s rfl rfl rfl
    refine ⟨x, ?_, fun h => absurd h hno, fun r' _ _ hr' => ?_⟩
    · rw [SpdWritten, ← hs1, hwrite, hnothing, List.append_nil, hx, hs1]
    · rw [hone r' hr']
      exact ⟨fun h => absurd h hold, fun _ => hx⟩

/-- R116: a write of the rights. -/
theorem spdWritten_moved (hi : new.rates = c.rates) :
    ∃ x, SpdWritten s new c x ∧
      (speedSourceOf new.rights = speedSourceOf c.rights ∨ s.spd.freshness = .stale → x = s.spd) ∧
      (speedSourceOf new.rights ≠ speedSourceOf c.rights → s.spd.freshness = .fresh →
        x = staleSpd s.spd) := by
  obtain ⟨s1, hs1⟩ : ∃ s1 : State, s1 = { s with cfg := { s.cfg with working := some new } } :=
    ⟨_, rfl⟩
  have hspd : s1.spd = s.spd := by rw [hs1]
  have hkept : spdTakesWrite new c s1 = s1 → SpdWritten s new c s.spd := fun h => by
    rw [SpdWritten, ← hs1, h, speedHandovers_same s rfl rfl rfl, List.append_nil, hs1]
  have hwrite : spdTakesWrite new c s1 =
      if speedSourceOf new.rights = speedSourceOf c.rights then s1 else spdTakesMove s1 := by
    unfold spdTakesWrite
    rw [hi, if_pos rfl]
  by_cases hsource : speedSourceOf new.rights = speedSourceOf c.rights
  · rw [if_pos hsource] at hwrite
    exact ⟨s.spd, hkept hwrite, fun _ => rfl, fun hn => absurd hsource hn⟩
  rw [if_neg hsource, spdTakesMove, hspd] at hwrite
  cases hf : s.spd.freshness with
  | stale =>
    rw [hf] at hwrite
    exact ⟨s.spd, hkept hwrite, fun _ => rfl, fun _ h => by cases h⟩
  | fresh =>
    rw [hf] at hwrite
    dsimp only at hwrite
    rw [becomeStale_eq, hspd] at hwrite
    refine ⟨staleSpd s.spd, ?_, fun h => ?_, fun _ _ => rfl⟩
    · rw [SpdWritten, ← hs1, hwrite, hs1]
      rfl
    · rcases h with h | h
      · exact absurd h hsource
      · cases h

end Structural

/-! ### The checks -/

section Checks

variable {s : State} {p : Port} {item part : Word} {ws : List Word}

/-- R157: a structural part of an item that is not multi-part, the sender holding CONFIG. -/
theorem decideWriteConfig_structural (hright : portHolds s p .config = true)
    (hitem : 6 ≤ item.toNat) (hmulti : multiPartItem item.toNat = false)
    (hpart : part.toNat < partCount item.toNat) :
    decideWriteConfig p (item :: part :: ws) s =
      match structuredBy (conf s) item.toNat part.toNat ws with
      | none => (s, .badArgument, [])
      | some c =>
        match structuralGate s with
        | some r => (s, r, [])
        | none => (writeThrough c s, .ok, []) := by
  unfold decideWriteConfig
  rw [show argAt (item :: part :: ws) 0 = item.toNat from rfl,
    show argAt (item :: part :: ws) 1 = part.toNat from rfl,
    show (item :: part :: ws).drop 2 = ws from rfl]
  dsimp only
  rw [if_neg (by simp [hright]), if_neg (by omega), if_neg (by simp [structuralItem, hitem]),
    if_neg (by simp [hmulti])]
  rfl

end Checks

/-! ### A structural write as a step -/

section StructuralStep

variable {w : When} {p : Port} {s : State} {c new : WorkingConfig} {item part : Word}
  {ws : List Word} {x : SpdUnit}

theorem exec_structural_taken (hp : s.phase = .running) (hs : s.hand = [])
    (hc : s.cfg.working = some c) (hright : portHolds s p .config = true)
    (ha : askedOf s p .writeConfig = some (item :: part :: ws)) (hitem : 6 ≤ item.toNat)
    (hmulti : multiPartItem item.toNat = false) (hpart : part.toNat < partCount item.toNat)
    (hnew : structuredBy c item.toNat part.toNat ws = some new)
    (hbusy : s.cfg.storeBusy = false) (hmode : s.seq.mode = .road ∨ s.seq.mode = .parked)
    (hg : new.gains.ceiling = c.gains.ceiling) (hf : new.tank0.full = c.tank0.full)
    (hx : SpdWritten (advance w.dt s) new c x) :
    ∃ t, exec (.writeConfig w p) s = .next t ∧
      still t = { still (advance w.dt s) with
        spd := t.spd
        cfg := { s.cfg with working := some new }
        links := answered s p ⟨.writeConfig, .ok, []⟩ } ∧
      t = takeHandovers w { advance w.dt s with
        spd := t.spd
        lkt := { s.lkt with lock :=
          if new.rights = c.rights then s.lkt.lock
          else s.lkt.lock.filter (fun q => holdsRight (portGet new.rights q) .config) }
        cfg := { s.cfg with working := some new }
        links := answered s p ⟨.writeConfig, .ok, []⟩
        hand := speedHandovers (advance w.dt s) false s.spd t.spd } ∧
      t.spd = x := by
  have hcu : (advance w.dt s).cfg.working = some c := by rw [advance_cfg]; exact hc
  have hd := decideWriteConfig_structural (s := advance w.dt s) (p := p) (ws := ws)
    ((portHolds_advance _ _ _ _).trans hright) hitem hmulti hpart
  rw [conf_of_working hcu, hnew, structuralGate_passed (by rw [advance_cfg]; simp [hbusy])
    (by rw [advance_seq]; exact hmode)] at hd
  dsimp only at hd
  rw [writeThrough_structural hcu hg hf hx] at hd
  have hexec := exec_request_links (c := .writeConfig w p) (w := w) rfl rfl hp hs ha hd
    (advance_links _ _)
  obtain ⟨y, hy⟩ : ∃ y : State, y = { writtenState (advance w.dt s) new c x with
    links := answered s p ⟨.writeConfig, .ok, []⟩ } := ⟨_, rfl⟩
  rw [← hy] at hexec
  have hstill := still_takeHandovers w y
  have hspd : (takeHandovers w y).spd = x := by
    refine (congrArg Still.spd hstill).trans ?_
    rw [hy]
    rfl
  refine ⟨_, hexec, ?_, ?_, hspd⟩
  · rw [hstill, hspd, hy, writtenState, advance_cfg]
    rfl
  · rw [hspd, hy, writtenState, advance_cfg, advance_lkt, advance_hand, advance_spd, hs,
      List.nil_append]

theorem exec_structural_refused {valid : Prop} {r : Result} (hp : s.phase = .running)
    (hs : s.hand = []) (hc : s.cfg.working = some c) (hright : portHolds s p .config = true)
    (ha : askedOf s p .writeConfig = some (item :: part :: ws)) (hitem : 6 ≤ item.toNat)
    (hmulti : multiPartItem item.toNat = false) (hpart : part.toNat < partCount item.toNat)
    (hsome : valid → structuredBy c item.toNat part.toNat ws = some new)
    (hnone : ¬valid → structuredBy c item.toNat part.toNat ws = none)
    (h : (¬valid ∧ r = .badArgument) ∨ (valid ∧ s.cfg.storeBusy = true ∧ r = .busy) ∨
      (valid ∧ s.cfg.storeBusy = false ∧ ¬(s.seq.mode = .road ∨ s.seq.mode = .parked) ∧
        r = .condition)) :
    exec (.writeConfig w p) s =
      .next { advance w.dt s with links := answered s p ⟨.writeConfig, r, []⟩ } := by
  have hd := decideWriteConfig_structural (s := advance w.dt s) (p := p) (ws := ws)
    ((portHolds_advance _ _ _ _).trans hright) hitem hmulti hpart
  rw [conf_of_working (by rw [advance_cfg]; exact hc)] at hd
  refine exec_answered (c := .writeConfig w p) (w := w) rfl rfl hp hs ha (hd.trans ?_)
  rcases h with ⟨hv, rfl⟩ | ⟨hv, hb, rfl⟩ | ⟨hv, hb, hm, rfl⟩
  · rw [hnone hv]
  · rw [hsome hv, structuralGate_failed (.inl ⟨by rw [advance_cfg]; exact hb, rfl⟩)]
  · rw [hsome hv, structuralGate_failed (.inr ⟨by rw [advance_cfg]; simp [hb],
      by rw [advance_seq]; exact hm, rfl⟩)]

end StructuralStep

/-! ### Each item's check (R157) -/

section Items

variable {c : WorkingConfig} {ws : List Word}

theorem timingValid_iff (t : Timing) :
    timingValid t = true ↔ (500 ≤ t.shift ∧ t.shift ≤ 5000) ∧
      (500 ≤ t.spinDown ∧ t.spinDown ≤ 5000) ∧ (500 ≤ t.release ∧ t.release ≤ 5000) ∧
      (300 ≤ t.disengageSpeed ∧ t.disengageSpeed ≤ 1200) ∧ (5 ≤ t.debounce ∧ t.debounce ≤ 100) := by
  simp only [timingValid, Bool.and_eq_true, within_iff, and_assoc]

theorem ratesValid_iff (r : Rates) :
    ratesValid r = true ↔ (1 ≤ r.q ∧ r.q ≤ 64) ∧ (100 ≤ r.gate ∧ r.gate ≤ 1000) ∧
      (1000 ≤ r.pulsesPerKm ∧ r.pulsesPerKm ≤ 60000) ∧
      (20 ≤ r.reportInterval ∧ r.reportInterval ≤ 1000) ∧
      (2 ≤ r.scanPeriod ∧ r.scanPeriod ≤ 250) := by
  simp only [ratesValid, Bool.and_eq_true, within_iff, and_assoc]

theorem fillItemsValid_iff (f : FillItems) :
    fillItemsValid f = true ↔ (1 ≤ f.timeoutMin ∧ f.timeoutMin ≤ 60) ∧
      (10 ≤ f.stallSec ∧ f.stallSec ≤ 120) ∧ (5 ≤ f.minRise ∧ f.minRise ≤ 100) := by
  simp only [fillItemsValid, Bool.and_eq_true, within_iff, and_assoc]

theorem calibrationValid_iff (k : Calibration) :
    calibrationValid k = true ↔ k.offset ≤ 4095 ∧ k.gain ≤ 4095 ∧ k.lo ≤ k.hi ∧ k.hi ≤ 4095 := by
  simp only [calibrationValid, Bool.and_eq_true, within_iff, decide_eq_true_eq]
  omega

theorem supplyOfCode_of_gt {n : Nat} (h : 1 < n) : supplyOfCode n = none := by
  unfold supplyOfCode
  split
  · omega
  · omega
  · rfl

theorem fillItemsOfWords_of_supply {supply : Supply} (h : supplyCode supply = valueAt ws 3) :
    fillItemsOfWords ws =
      if valueAt ws 4 ≤ 1 then
        some ⟨valueAt ws 0, valueAt ws 1, valueAt ws 2, supply, valueAt ws 4 == 1⟩
      else none := by
  rw [fillItemsOfWords, ← h, supplyOfCode_supplyCode]

end Items

/-- Settles O58: each item's check and value, and SPD at a write of the rates or the rights. -/
theorem structuralWritesAreTakenWholeOrRefused :
    Obligations.StructuralWritesAreTakenWholeOrRefused := by
  unfold Obligations.StructuralWritesAreTakenWholeOrRefused
  intro w p s c item part ws hp hs hc hright ha u v within_ admitted row same stale paced mask
  have hspdu : u.spd = s.spd := advance_spd _ _
  have hrow : ∀ (i k : Nat) (valid : Prop) (new : WorkingConfig) (spd : SpdUnit → Prop),
      6 ≤ i → multiPartItem i = false → k < partCount i →
      (valid → structuredBy c i k ws = some new) → (¬valid → structuredBy c i k ws = none) →
      new.gains.ceiling = c.gains.ceiling → new.tank0.full = c.tank0.full →
      (∃ x, SpdWritten u new c x ∧ spd x) → row i k valid new spd := by
    intro i k valid new spd hi hmulti hk hsome hnone hg hf hspd hitem hpart
    subst hitem hpart
    refine ⟨fun hv hb hm => ?_, fun r h => ?_⟩
    · obtain ⟨x, hx, hspdx⟩ := hspd
      obtain ⟨t, hexec, hstill, ht, hxt⟩ := exec_structural_taken hp hs hc hright ha hi hmulti hk
        (hsome hv) hb hm hg hf hx
      exact ⟨t, hexec, hstill, ht, by rw [hxt]; exact hspdx⟩
    · exact exec_structural_refused hp hs hc hright ha hi hmulti hk hsome hnone h
  have hsame : ∀ new : WorkingConfig, new.rates = c.rates → new.rights = c.rights →
      ∃ x, SpdWritten u new c x ∧ same x := fun new hrates hrights =>
    ⟨u.spd, spdWritten_same hrates hrights, hspdu⟩
  refine ⟨?_, ?_, fun supply hsupply hcode => ?_, fun hsupply => ?_, fun k hk => ?_, ?_, ?_⟩
  · have hvalid := timingValid_iff (timingOfWords ws)
    exact hrow 6 0 _ _ _ (by omega) rfl (by decide) (fun hv => if_pos (hvalid.mpr hv))
      (fun hv => if_neg fun h => hv (hvalid.mp h)) rfl rfl (hsame _ rfl rfl)
  · have hvalid := ratesValid_iff (ratesOfWords ws)
    obtain ⟨x, hx, hkept, hpaced⟩ := spdWritten_paced (s := u) (c := c)
      (new := { c with rates := ratesOfWords ws }) rfl
    rw [hspdu] at hkept hpaced
    exact hrow 7 0 _ _ _ (by omega) rfl (by decide) (fun hv => if_pos (hvalid.mpr hv))
      (fun hv => if_neg fun h => hv (hvalid.mp h)) rfl rfl ⟨x, hx, hkept, hpaced⟩
  · have hvalid := fillItemsValid_iff
      ⟨valueAt ws 0, valueAt ws 1, valueAt ws 2, supply, valueAt ws 4 == 1⟩
    have hwords := fillItemsOfWords_of_supply hcode
    refine hrow 8 0 _ _ _ (by omega) rfl (by decide) ?_ ?_ rfl rfl (hsame _ rfl rfl)
    · rintro ⟨h0, h1, h2, h4⟩
      rw [if_pos h4] at hwords
      rw [structuredBy, hwords]
      exact if_pos (hvalid.mpr ⟨h0, h1, h2⟩)
    · intro hv
      rw [structuredBy, hwords]
      by_cases h4 : valueAt ws 4 ≤ 1
      · rw [if_pos h4]
        refine if_neg fun h => hv ?_
        obtain ⟨h0, h1, h2⟩ := hvalid.mp h
        exact ⟨h0, h1, h2, h4⟩
      · rw [if_neg h4]
  · refine hrow 8 0 _ _ _ (by omega) rfl (by decide) False.elim (fun _ => ?_) rfl rfl
      (hsame _ rfl rfl)
    rw [structuredBy, fillItemsOfWords, supplyOfCode_of_gt hsupply]
  · have hvalid := calibrationValid_iff (calibrationOfWords ws)
    refine hrow 10 k _ _ _ (by omega) rfl hk (fun hv => ?_)
      (fun hv => if_neg fun h => hv (hvalid.mp h)) rfl rfl (hsame _ rfl rfl)
    rw [← replaceAt_eq_set]
    exact if_pos (hvalid.mpr hv)
  · obtain ⟨x, hx, hkept, hmoved⟩ := spdWritten_moved (s := u) (c := c)
      (new := { c with rights := rightsOfWords ws, ranks := ranksOfWords ws }) rfl
    rw [hspdu] at hkept hmoved
    have hvalid := Bool.and_eq_true_iff (x := oneSpeedSource (rightsOfWords ws))
      (y := ranksValid (ranksOfWords ws))
    refine hrow 13 0 _ _
      (fun x => (speedSourceOf (rightsOfWords ws) = speedSourceOf c.rights ∨
          s.spd.freshness = .stale → same x) ∧
        (speedSourceOf (rightsOfWords ws) ≠ speedSourceOf c.rights → s.spd.freshness = .fresh →
          stale x))
      (by omega) rfl (by decide) (fun hv => if_pos (hvalid.mpr hv))
      (fun hv => if_neg fun h => hv (hvalid.mp h)) rfl rfl ⟨x, hx, hkept, hmoved⟩
  · exact hrow 14 0 _ _ _ (by omega) rfl (by decide) (fun _ => rfl) (fun h => absurd trivial h) rfl
      rfl (hsame _ rfl rfl)

end Sys2Proof.Machine
end

section
/-! WRITE_CONFIG of the scan list and of a strapping table, part by part (R158). -/

namespace Sys2Proof.Machine

/-! ### The whole-item checks -/

section Tables

theorem strictlyRising_iff_pairwise (l : List Nat) :
    strictlyRising l = true ↔ l.Pairwise (· < ·) := by
  rw [← List.isChain_iff_pairwise]
  induction l with
  | nil => simp [strictlyRising]
  | cons a l ih =>
    cases l with
    | nil => simp [strictlyRising]
    | cons b l =>
      rw [strictlyRising, Bool.and_eq_true, ih, List.isChain_cons_cons, decide_eq_true_eq]

theorem entriesValid_iff (n : Nat) (entries : List Word) :
    entriesValid n entries = true ↔ ∀ e ∈ entries.take n, e.toNat ≤ 7 := by
  simp only [entriesValid, List.all_eq_true, decide_eq_true_eq]

/-- R158: the entries of a staged list are channel numbers once those of its parts are. -/
theorem scanListValid_iff {part0 part1 : List Word} (h0 : part0.length = 7)
    (h1 : part1.length = 7) (hn : 1 ≤ valueAt part0 0 ∧ valueAt part0 0 ≤ 12)
    (hhead : ∀ e ∈ (part0.drop 1).take (min 6 (valueAt part0 0)), e.toNat ≤ 7)
    (htail : ∀ e ∈ part1.take (min 6 (valueAt part0 0 - 6)), e.toNat ≤ 7) :
    scanListValid (scanListOfWords part0 part1) = true ↔ 0 ∈ scanListOfWords part0 part1 := by
  have hsix : ((part0.drop 1).take 6).length = 6 := by simp [h0]
  have hsix1 : (part1.take 6).length = 6 := by simp [h1]
  have hlength : (scanListOfWords part0 part1).length = valueAt part0 0 := by
    rw [scanListOfWords, List.length_take, List.length_map, List.length_append, hsix, hsix1]
    omega
  have hsmall : ∀ ch ∈ scanListOfWords part0 part1, ch ≤ 7 := by
    intro ch hch
    rw [scanListOfWords, ← List.map_take, List.take_append, hsix, List.take_take, List.take_take,
      Nat.min_comm, Nat.min_comm _ 6, List.mem_map] at hch
    obtain ⟨e, he, rfl⟩ := hch
    exact (List.mem_append.mp he).elim (hhead e) (htail e)
  simp only [scanListValid, Bool.and_eq_true, within_iff, List.all_eq_true, decide_eq_true_eq,
    List.contains_iff_mem, hlength]
  exact ⟨fun h => h.2, fun h => ⟨⟨hn, hsmall⟩, h⟩⟩

/-- R97, R158: a table of three parts. -/
theorem strapValid_iff (part0 part1 part2 : List Word) :
    strapValid (pointsOfWords part0 ++ pointsOfWords part1 ++ pointsOfWords part2) = true ↔
      (∀ part ∈ [part0, part1, part2],
        valueAt part 0 ≤ 2000 ∧ valueAt part 2 ≤ 2000 ∧ valueAt part 4 ≤ 2000) ∧
      ((pointsOfWords part0 ++ pointsOfWords part1 ++ pointsOfWords part2).map
        StrapPoint.level).Pairwise (· < ·) ∧
      ((pointsOfWords part0 ++ pointsOfWords part1 ++ pointsOfWords part2).map
        StrapPoint.volume).Pairwise (· < ·) := by
  have hvolume := fun (ws : List Word) n => Nat.le_of_lt_succ (valueAt_lt ws n)
  have hpoints : ∀ ws : List Word,
      ((pointsOfWords ws).all fun q =>
          decide (q.level ≤ 2000) && decide (q.volume ≤ 65535)) = true ↔
        valueAt ws 0 ≤ 2000 ∧ valueAt ws 2 ≤ 2000 ∧ valueAt ws 4 ≤ 2000 := by
    simp [pointsOfWords, hvolume]
  rw [strapValid, Bool.and_eq_true, Bool.and_eq_true, Bool.and_eq_true, strictlyRising_iff_pairwise,
    strictlyRising_iff_pairwise, List.all_append, List.all_append, Bool.and_eq_true,
    Bool.and_eq_true, hpoints, hpoints, hpoints]
  simp [pointsOfWords, and_assoc]

end Tables

/-! ### A part's own checks -/

section Parts

variable {s : State} {p : Port} {item part : Nat} {ws : List Word}

/-- R157, check 3, of a part of a multi-part item. -/
def PartSound (p : Port) (item part : Nat) (ws : List Word) (s : State) : Prop :=
  partInRange (stagedParts p item s) item part ws = true ∧ completesWrongly p item part ws s = false

theorem stagedParts_of_staging {n : Nat} {parts : List (List Word)}
    (h : portGet s.cfg.staging p = some ⟨item, n, parts⟩) : stagedParts p item s = parts := by
  rw [stagedParts, h]
  exact if_pos rfl

theorem expectsPart_iff :
    expectsPart p item part s = true ↔
      ∃ x, portGet s.cfg.staging p = some x ∧ x.item = item ∧ x.next = part := by
  unfold expectsPart
  split
  · next h => simp [h]
  · next x h => simp [h]

theorem expectsPart_of_other
    (h : ∀ x, portGet s.cfg.staging p = some x → x.item ≠ item ∨ x.next ≠ part) :
    expectsPart p item part s = false := by
  rw [← Bool.not_eq_true, expectsPart_iff]
  rintro ⟨x, hx, hitem, hnext⟩
  exact (h x hx).elim (· hitem) (· hnext)

theorem completesWrongly_of_unexpected (h : expectsPart p item part s = false) :
    completesWrongly p item part ws s = false := by
  rw [completesWrongly, h]
  rfl

theorem completesWrongly_of_ne (h : part + 1 ≠ partCount item) :
    completesWrongly p item part ws s = false := by
  simp [completesWrongly, h]

/-- R158: the part that completes an item. -/
theorem completesWrongly_last {parts : List (List Word)}
    (h : portGet s.cfg.staging p = some ⟨item, part, parts⟩) (hlast : part + 1 = partCount item) :
    completesWrongly p item part ws s = (completedBy (conf s) item (parts ++ [ws])).isNone := by
  rw [completesWrongly, expectsPart_iff.mpr ⟨_, h, rfl, rfl⟩, stagedParts_of_staging h, hlast,
    beq_self_eq_true]
  rfl

theorem partInRange_scanHead (staged : List (List Word)) (ws : List Word) :
    partInRange staged 9 0 ws = true ↔ 1 ≤ valueAt ws 0 ∧ valueAt ws 0 ≤ 12 ∧
      ∀ e ∈ (ws.drop 1).take (min 6 (valueAt ws 0)), e.toNat ≤ 7 := by
  rw [partInRange, if_pos rfl, if_pos rfl, Bool.and_eq_true, within_iff, entriesValid_iff,
    and_assoc]

theorem partInRange_scanTail (part0 ws : List Word) :
    partInRange [part0] 9 1 ws = true ↔
      ∀ e ∈ ws.take (min 6 (valueAt part0 0 - 6)), e.toNat ≤ 7 := by
  rw [partInRange, if_pos rfl, if_neg (by omega), entriesValid_iff]
  rfl

theorem partInRange_strap (staged : List (List Word)) (ws : List Word) (h : item ≠ 9) :
    partInRange staged item part ws = true ↔
      valueAt ws 0 ≤ 2000 ∧ valueAt ws 2 ≤ 2000 ∧ valueAt ws 4 ≤ 2000 := by
  rw [partInRange, if_neg h]
  simp [pointsOfWords]

theorem partSound_scanHead :
    PartSound p 9 0 ws s ↔ 1 ≤ valueAt ws 0 ∧ valueAt ws 0 ≤ 12 ∧
      ∀ e ∈ (ws.drop 1).take (min 6 (valueAt ws 0)), e.toNat ≤ 7 := by
  rw [PartSound, partInRange_scanHead, completesWrongly_of_ne (by decide)]
  exact and_iff_left rfl

theorem completedBy_scan (c : WorkingConfig) (part0 part1 : List Word) :
    completedBy c 9 [part0, part1] =
      if scanListValid (scanListOfWords part0 part1) then
        some { c with scanList := scanListOfWords part0 part1 }
      else none := by
  rw [completedBy, if_pos rfl]
  rfl

theorem partSound_scanTail {part0 : List Word}
    (h : portGet s.cfg.staging p = some ⟨9, 1, [part0]⟩) :
    PartSound p 9 1 ws s ↔
      (∀ e ∈ ws.take (min 6 (valueAt part0 0 - 6)), e.toNat ≤ 7) ∧
        scanListValid (scanListOfWords part0 ws) = true := by
  rw [PartSound, stagedParts_of_staging h, partInRange_scanTail, completesWrongly_last h rfl]
  refine and_congr_right fun _ => ?_
  rw [List.singleton_append, completedBy_scan]
  split
  · next hv => exact iff_of_true rfl hv
  · next hv => exact iff_of_false (by nofun) hv

/-- A second part of the scan list that finds no staged first part has no entries to be checked. -/
theorem partSound_scanTail_unstaged
    (h : ∀ x, portGet s.cfg.staging p = some x → x.item ≠ 9) : PartSound p 9 1 ws s := by
  have hstaged : stagedParts p 9 s = [] := by
    unfold stagedParts
    split
    · rfl
    · next x hx => exact if_neg (h x hx)
  refine ⟨?_, completesWrongly_of_unexpected (expectsPart_of_other fun x hx => .inl (h x hx))⟩
  rw [hstaged, partInRange, if_pos rfl, if_neg (by omega), entriesValid_iff]
  intro e he
  simp [valueAt] at he

theorem partSound_strap (hitem : item ≠ 9)
    (h : part + 1 ≠ partCount item ∨ expectsPart p item part s = false) :
    PartSound p item part ws s ↔
      valueAt ws 0 ≤ 2000 ∧ valueAt ws 2 ≤ 2000 ∧ valueAt ws 4 ≤ 2000 := by
  rw [PartSound, partInRange_strap _ _ hitem,
    h.elim completesWrongly_of_ne completesWrongly_of_unexpected]
  exact and_iff_left rfl

theorem completedBy_strap (c : WorkingConfig) (part0 part1 part2 : List Word) (hitem : item ≠ 9) :
    completedBy c item [part0, part1, part2] =
      if strapValid (pointsOfWords part0 ++ pointsOfWords part1 ++ pointsOfWords part2) then
        some (if item = 11 then
          { c with strap0 := pointsOfWords part0 ++ pointsOfWords part1 ++ pointsOfWords part2 }
        else { c with strap1 := pointsOfWords part0 ++ pointsOfWords part1 ++ pointsOfWords part2 })
      else none := by
  rw [completedBy, if_neg hitem]
  rfl

theorem partSound_strapLast {part0 part1 : List Word} (hitem : item ≠ 9)
    (hcount : partCount item = 3) (h : portGet s.cfg.staging p = some ⟨item, 2, [part0, part1]⟩) :
    PartSound p item 2 ws s ↔
      (valueAt ws 0 ≤ 2000 ∧ valueAt ws 2 ≤ 2000 ∧ valueAt ws 4 ≤ 2000) ∧
        strapValid (pointsOfWords part0 ++ pointsOfWords part1 ++ pointsOfWords ws) = true := by
  rw [PartSound, partInRange_strap _ _ hitem, completesWrongly_last h hcount.symm]
  refine and_congr_right fun _ => ?_
  rw [show [part0, part1] ++ [ws] = [part0, part1, ws] from rfl, completedBy_strap _ _ _ _ hitem]
  split
  · next hv => exact iff_of_true rfl hv
  · next hv => exact iff_of_false (by nofun) hv

end Parts

/-! ### What WRITE_CONFIG makes of a part -/

section Staging

variable {s : State} {p : Port} {c : WorkingConfig}

/-- `s` with this working configuration and staging record of port `p`. -/
def withTable (p : Port) (c : WorkingConfig) (x : Option Staging) (s : State) : State :=
  { s with cfg := { s.cfg with working := some c, staging := portSet s.cfg.staging p x } }

theorem dropStaging_eq (hc : s.cfg.working = some c) : dropStaging p s = withTable p c none s := by
  rw [withTable, ← hc]
  rfl

theorem keepStaging_eq (hc : s.cfg.working = some c) (x : Staging) :
    keepStaging p x s = withTable p c (some x) s := by
  rw [withTable, ← hc]
  rfl

theorem withTable_self (hc : s.cfg.working = some c) :
    withTable p c (portGet s.cfg.staging p) s = s := by
  rw [withTable, ← hc, portSet_portGet]

/-- R158: the completed item replaces the one in effect; no owner acts at the write. -/
theorem writeThrough_table {new : WorkingConfig} (hc : s.cfg.working = some c)
    (hg : new.gains = c.gains) (hf : new.tank0 = c.tank0) (hi : new.rates = c.rates)
    (hr : new.rights = c.rights) :
    writeThrough new (dropStaging p s) = withTable p new none s := by
  rw [writeThrough_structural (s := dropStaging p s) (c := c) hc (by rw [hg]) (by rw [hf])
    (spdWritten_same hi hr), writtenState, if_pos hr, speedHandovers_same _ rfl rfl rfl,
    List.append_nil]
  rfl

variable {item part : Word} {ws : List Word}

theorem decideWriteConfig_part (hright : portHolds s p .config = true)
    (hmulti : multiPartItem item.toNat = true) (hpart : part.toNat < partCount item.toNat) :
    decideWriteConfig p (item :: part :: ws) s =
      if !partInRange (stagedParts p item.toNat s) item.toNat part.toNat ws ||
          completesWrongly p item.toNat part.toNat ws s then
        refuseWrite p item.toNat .badArgument s
      else
        match structuralGate s with
        | some r => refuseWrite p item.toNat r s
        | none => stagePart p item.toNat part.toNat ws s := by
  have hstructural : structuralItem item.toNat = true := by
    simp only [multiPartItem, Bool.or_eq_true, beq_iff_eq] at hmulti
    simp only [structuralItem, decide_eq_true_eq]
    omega
  unfold decideWriteConfig
  rw [show argAt (item :: part :: ws) 0 = item.toNat from rfl,
    show argAt (item :: part :: ws) 1 = part.toNat from rfl,
    show (item :: part :: ws).drop 2 = ws from rfl]
  dsimp only
  rw [if_neg (by simp [hright]), if_neg (by omega), if_neg (by simp [hstructural]),
    if_pos hmulti] <;> rfl

theorem refuseWrite_drops {r : Result} (hc : s.cfg.working = some c)
    (hmulti : multiPartItem item.toNat = true) (hr : r ≠ .noRight) :
    refuseWrite p item.toNat r s = (withTable p c none s, r, []) := by
  rw [refuseWrite, hmulti, discardsStaging, bne_iff_ne.mpr hr, refuse, ← dropStaging_eq hc]
  rfl

theorem decideWriteConfig_part_unsound (hc : s.cfg.working = some c)
    (hright : portHolds s p .config = true) (hmulti : multiPartItem item.toNat = true)
    (hpart : part.toNat < partCount item.toNat)
    (h : ¬PartSound p item.toNat part.toNat ws s) :
    decideWriteConfig p (item :: part :: ws) s = (withTable p c none s, .badArgument, []) := by
  rw [decideWriteConfig_part hright hmulti hpart, if_pos,
    refuseWrite_drops hc hmulti (by decide)]
  rw [Bool.or_eq_true, Bool.not_eq_true', ← Bool.not_eq_true, ← imp_iff_not_or]
  intro hrange
  rw [← Bool.not_eq_false]
  exact fun hw => h ⟨hrange, hw⟩

theorem decideWriteConfig_part_gated {r : Result} (hc : s.cfg.working = some c)
    (hright : portHolds s p .config = true) (hmulti : multiPartItem item.toNat = true)
    (hpart : part.toNat < partCount item.toNat) (h : PartSound p item.toNat part.toNat ws s)
    (hgate : structuralGate s = some r) (hr : r ≠ .noRight) :
    decideWriteConfig p (item :: part :: ws) s = (withTable p c none s, r, []) := by
  obtain ⟨hrange, hwhole⟩ := h
  rw [decideWriteConfig_part hright hmulti hpart, if_neg (by simp [hrange, hwhole]), hgate]
  exact refuseWrite_drops hc hmulti hr

theorem decideWriteConfig_part_sound (hright : portHolds s p .config = true)
    (hmulti : multiPartItem item.toNat = true) (hpart : part.toNat < partCount item.toNat)
    (h : PartSound p item.toNat part.toNat ws s) (hgate : structuralGate s = none) :
    decideWriteConfig p (item :: part :: ws) s = stagePart p item.toNat part.toNat ws s := by
  obtain ⟨hrange, hwhole⟩ := h
  rw [decideWriteConfig_part hright hmulti hpart, if_neg (by simp [hrange, hwhole]), hgate]

theorem stagePart_first (hc : s.cfg.working = some c) (i : Nat) :
    stagePart p i 0 ws s = (withTable p c (some ⟨i, 1, [ws]⟩) s, .ok, []) := by
  rw [stagePart, if_pos rfl, keepStaging_eq hc]

theorem stagePart_next {i k : Nat} {parts : List (List Word)} (hc : s.cfg.working = some c)
    (hk : 1 ≤ k) (hcount : k + 1 < partCount i)
    (h : portGet s.cfg.staging p = some ⟨i, k, parts⟩) :
    stagePart p i k ws s = (withTable p c (some ⟨i, k + 1, parts ++ [ws]⟩) s, .ok, []) := by
  rw [stagePart, if_neg (by omega), if_pos (expectsPart_iff.mpr ⟨_, h, rfl, rfl⟩),
    stagedParts_of_staging h, if_pos hcount, keepStaging_eq hc]

theorem stagePart_last {i k : Nat} {parts : List (List Word)} {new : WorkingConfig}
    (hc : s.cfg.working = some c) (hk : 1 ≤ k) (hcount : k + 1 = partCount i)
    (h : portGet s.cfg.staging p = some ⟨i, k, parts⟩)
    (hnew : completedBy c i (parts ++ [ws]) = some new) :
    stagePart p i k ws s = (writeThrough new (dropStaging p s), .ok, []) := by
  rw [stagePart, if_neg (by omega), if_pos (expectsPart_iff.mpr ⟨_, h, rfl, rfl⟩),
    stagedParts_of_staging h, if_neg (by omega), conf_of_working hc, hnew]

theorem stagePart_unexpected {i k : Nat} (hc : s.cfg.working = some c) (hk : 1 ≤ k)
    (h : expectsPart p i k s = false) :
    stagePart p i k ws s = (withTable p c none s, .badArgument, []) := by
  rw [stagePart, if_neg (by omega), if_neg (by simp [h]), refuse, dropStaging_eq hc]

end Staging

/-! ### A part as a step -/

section PartStep

variable {w : When} {p : Port} {s : State} {c new : WorkingConfig} {item part : Word}
  {ws : List Word} {r : Result}

/-- The step answers `r`, leaves this working configuration and this staging record of the sender's,
and changes nothing else. -/
def TableResult (w : When) (p : Port) (s : State) (working : WorkingConfig)
    (staging : Option Staging) (r : Result) : Prop :=
  exec (.writeConfig w p) s = .next { advance w.dt s with
    cfg := { s.cfg with working := some working, staging := portSet s.cfg.staging p staging }
    links := answered s p ⟨.writeConfig, r, []⟩ }

theorem exec_table {x : Option Staging} (hp : s.phase = .running) (hs : s.hand = [])
    (ha : askedOf s p .writeConfig = some (item :: part :: ws))
    (hd : decideWriteConfig p (item :: part :: ws) (advance w.dt s) =
      (withTable p new x (advance w.dt s), r, [])) : TableResult w p s new x r := by
  have hexec := exec_request_quiet (c := .writeConfig w p) (w := w) rfl rfl hp hs ha hd
    (advance_links _ _) ((advance_hand _ _).trans hs)
  rw [withTable, advance_cfg] at hexec
  exact hexec

/-- The part runs, and port `p`, holding CONFIG, asks for a part that a multi-part item has. -/
structure AsksPart (p : Port) (s : State) (c : WorkingConfig) (item part : Word) (ws : List Word) :
    Prop where
  running : s.phase = .running
  quiet : s.hand = []
  working : s.cfg.working = some c
  right : portHolds s p .config = true
  multi : multiPartItem item.toNat = true
  there : part.toNat < partCount item.toNat
  asked : askedOf s p .writeConfig = some (item :: part :: ws)

theorem partSound_advance {i k dt : Nat} :
    PartSound p i k ws (advance dt s) ↔ PartSound p i k ws s := by
  unfold PartSound completesWrongly expectsPart stagedParts
  rw [advance_cfg, conf_advance]

theorem AsksPart.working_advance (h : AsksPart p s c item part ws) (dt : Nat) :
    (advance dt s).cfg.working = some c := by
  rw [advance_cfg]
  exact h.working

theorem AsksPart.right_advance (h : AsksPart p s c item part ws) (dt : Nat) :
    portHolds (advance dt s) p .config = true := (portHolds_advance _ _ _ _).trans h.right

theorem AsksPart.unsound (h : AsksPart p s c item part ws)
    (hpart : ¬PartSound p item.toNat part.toNat ws s) :
    TableResult w p s c none .badArgument :=
  exec_table h.running h.quiet h.asked (decideWriteConfig_part_unsound (h.working_advance _)
    (h.right_advance _) h.multi h.there (partSound_advance.not.mpr hpart))

theorem AsksPart.gated (h : AsksPart p s c item part ws)
    (hpart : PartSound p item.toNat part.toNat ws s)
    (hgate : (s.cfg.storeBusy = true ∧ r = .busy) ∨
      (s.cfg.storeBusy = false ∧ s.seq.mode ≠ .road ∧ s.seq.mode ≠ .parked ∧ r = .condition)) :
    TableResult w p s c none r := by
  have hr : r ≠ .noRight := by
    rcases hgate with ⟨-, rfl⟩ | ⟨-, -, -, rfl⟩ <;> nofun
  refine exec_table h.running h.quiet h.asked (decideWriteConfig_part_gated (h.working_advance _)
    (h.right_advance _) h.multi h.there (partSound_advance.mpr hpart) (structuralGate_failed ?_) hr)
  rw [advance_cfg, advance_seq]
  rcases hgate with h | ⟨hb, hroad, hparked, hr⟩
  · exact .inl h
  · exact .inr ⟨by simp [hb], not_or.mpr ⟨hroad, hparked⟩, hr⟩

/-- R157, check 3 to 5 passed: R158 then says what becomes of the part. -/
theorem AsksPart.sound {x : Option Staging} (h : AsksPart p s c item part ws)
    (hpart : PartSound p item.toNat part.toNat ws s) (hbusy : s.cfg.storeBusy = false)
    (hmode : s.seq.mode = .road ∨ s.seq.mode = .parked)
    (hstage : stagePart p item.toNat part.toNat ws (advance w.dt s) =
      (withTable p new x (advance w.dt s), r, [])) :
    TableResult w p s new x r :=
  exec_table h.running h.quiet h.asked ((decideWriteConfig_part_sound (h.right_advance _) h.multi
    h.there (partSound_advance.mpr hpart) (structuralGate_passed (by rw [advance_cfg]; simp [hbusy])
      (by rw [advance_seq]; exact hmode))).trans hstage)

theorem AsksPart.first (h : AsksPart p s c item part ws) (hk : part.toNat = 0)
    (hpart : PartSound p item.toNat part.toNat ws s) (hbusy : s.cfg.storeBusy = false)
    (hmode : s.seq.mode = .road ∨ s.seq.mode = .parked) :
    TableResult w p s c (some ⟨item.toNat, 1, [ws]⟩) .ok := by
  refine h.sound hpart hbusy hmode ?_
  rw [hk]
  exact stagePart_first (h.working_advance _) _

theorem AsksPart.next {parts : List (List Word)} (h : AsksPart p s c item part ws)
    (hk : 1 ≤ part.toNat) (hcount : part.toNat + 1 < partCount item.toNat)
    (hstaged : portGet s.cfg.staging p = some ⟨item.toNat, part.toNat, parts⟩)
    (hpart : PartSound p item.toNat part.toNat ws s) (hbusy : s.cfg.storeBusy = false)
    (hmode : s.seq.mode = .road ∨ s.seq.mode = .parked) :
    TableResult w p s c (some ⟨item.toNat, part.toNat + 1, parts ++ [ws]⟩) .ok :=
  h.sound hpart hbusy hmode (stagePart_next (h.working_advance _) hk hcount
    (by rw [advance_cfg]; exact hstaged))

theorem AsksPart.last {parts : List (List Word)} (h : AsksPart p s c item part ws)
    (hk : 1 ≤ part.toNat) (hcount : part.toNat + 1 = partCount item.toNat)
    (hstaged : portGet s.cfg.staging p = some ⟨item.toNat, part.toNat, parts⟩)
    (hnew : completedBy c item.toNat (parts ++ [ws]) = some new) (hg : new.gains = c.gains)
    (hf : new.tank0 = c.tank0) (hi : new.rates = c.rates) (hr : new.rights = c.rights)
    (hpart : PartSound p item.toNat part.toNat ws s) (hbusy : s.cfg.storeBusy = false)
    (hmode : s.seq.mode = .road ∨ s.seq.mode = .parked) : TableResult w p s new none .ok := by
  refine h.sound hpart hbusy hmode ?_
  rw [stagePart_last (h.working_advance _) hk hcount (by rw [advance_cfg]; exact hstaged) hnew,
    writeThrough_table (h.working_advance _) hg hf hi hr]

theorem AsksPart.unexpected (h : AsksPart p s c item part ws) (hk : 1 ≤ part.toNat)
    (hother : ∀ x, portGet s.cfg.staging p = some x → x.item ≠ item.toNat ∨ x.next ≠ part.toNat)
    (hbusy : s.cfg.storeBusy = false) (hmode : s.seq.mode = .road ∨ s.seq.mode = .parked) :
    TableResult w p s c none .badArgument := by
  by_cases hpart : PartSound p item.toNat part.toNat ws s
  · exact h.sound hpart hbusy hmode (stagePart_unexpected (h.working_advance _) hk
      (expectsPart_of_other (by rw [advance_cfg]; exact hother)))
  · exact h.unsound hpart

/-- R145, R158: whether NO_RIGHT discards the staging record is a free value (log entry 38). -/
theorem exec_part_noRight (hp : s.phase = .running) (hs : s.hand = [])
    (hc : s.cfg.working = some c) (hmulti : multiPartItem item.toNat = true)
    (hright : portHolds s p .config = false)
    (ha : askedOf s p .writeConfig = some (item :: part :: ws)) :
    TableResult w p s c (if Config.discardsWithoutRight then none else portGet s.cfg.staging p)
      .noRight := by
  have hcu : (advance w.dt s).cfg.working = some c := by rw [advance_cfg]; exact hc
  refine exec_table hp hs ha ?_
  unfold decideWriteConfig
  dsimp only
  rw [if_pos (by rw [portHolds_advance, hright]; rfl),
    show argAt (item :: part :: ws) 0 = item.toNat from rfl, refuseWrite, hmulti, discardsStaging]
  by_cases hd : Config.discardsWithoutRight = true
  · rw [if_pos hd, hd, ← dropStaging_eq hcu]
    rfl
  · rw [if_neg hd, Bool.eq_false_of_not_eq_true hd,
      show portGet s.cfg.staging p = portGet (advance w.dt s).cfg.staging p by rw [advance_cfg],
      withTable_self hcu]
    rfl

theorem exec_part_missing (hp : s.phase = .running) (hs : s.hand = [])
    (hc : s.cfg.working = some c) (hmulti : multiPartItem item.toNat = true)
    (hright : portHolds s p .config = true) (hpart : partCount item.toNat ≤ part.toNat)
    (ha : askedOf s p .writeConfig = some (item :: part :: ws)) :
    TableResult w p s c none .badArgument := by
  refine exec_table hp hs ha ?_
  unfold decideWriteConfig
  dsimp only
  rw [if_neg (by rw [portHolds_advance, hright]; nofun),
    show argAt (item :: part :: ws) 0 = item.toNat from rfl,
    show argAt (item :: part :: ws) 1 = part.toNat from rfl, if_pos hpart]
  exact refuseWrite_drops (by rw [advance_cfg]; exact hc) hmulti nofun

end PartStep

/-- Settles O59: each part's check, in the order of R157, and what R158 makes of the part. -/
theorem tablesAreWrittenPartByPart : Obligations.TablesAreWrittenPartByPart := by
  unfold Obligations.TablesAreWrittenPartByPart
  intro w p s c part0 part1 part2 hp hs hc hlen0 hlen1 hlen2 u asks result holds admitted small n
    head tail list low table rising
  have hasks : ∀ {item part : Word} {ws : List Word}, holds → asks item part ws →
      multiPartItem item.toNat = true → part.toNat < partCount item.toNat →
      AsksPart p s c item part ws := fun hright ha hmulti hpart =>
    ⟨hp, hs, hc, hright, hmulti, hpart, ha⟩
  have hmulti : ∀ {item : Word}, item = 9 ∨ item = 11 ∨ item = 12 →
      multiPartItem item.toNat = true := by
    rintro item (rfl | rfl | rfl) <;> rfl
  have hcount : ∀ {item : Word}, item = 11 ∨ item = 12 → partCount item.toNat = 3 := by
    rintro item (rfl | rfl) <;> rfl
  have hne : ∀ {item : Word}, item = 11 ∨ item = 12 → item.toNat ≠ 9 := by
    rintro item (rfl | rfl) <;> decide
  have hlist : head → tail → (scanListValid list = true ↔ 0 ∈ list) := fun hhead htail =>
    scanListValid_iff hlen0 hlen1 ⟨hhead.1, hhead.2.1⟩ hhead.2.2 htail
  have hscan : portGet s.cfg.staging p = some ⟨9, 1, [part0]⟩ →
      (PartSound p 9 1 part1 s ↔ tail ∧ scanListValid list = true) := partSound_scanTail
  have htable : strapValid table = true ↔ (low part0 ∧ low part1 ∧ low part2) ∧ rising := by
    refine (strapValid_iff part0 part1 part2).trans (and_congr_left fun _ => ?_)
    simp [low]
  have hstrap : ∀ {item : Word}, item = 11 ∨ item = 12 →
      portGet s.cfg.staging p = some ⟨item.toNat, 2, [part0, part1]⟩ →
      (PartSound p item.toNat 2 part2 s ↔ low part2 ∧ strapValid table = true) :=
    fun hitem h => partSound_strapLast (hne hitem) (hcount hitem) h
  refine ⟨fun ha hadm => ⟨fun hhead => ?_, fun hhead => ?_⟩, fun ha hadm hst hhead => ?_,
    fun item hitem => ?_, fun item part hitem => ?_, fun item part r hright hgate => ?_,
    fun item part hright => ?_⟩
  · obtain ⟨hright, hbusy, hmode⟩ := hadm
    exact (hasks hright ha rfl (by decide)).first rfl (partSound_scanHead.mpr hhead) hbusy hmode
  · exact (hasks hadm.1 ha rfl (by decide)).unsound (partSound_scanHead.not.mpr hhead)
  · obtain ⟨hright, hbusy, hmode⟩ := hadm
    have h := hasks hright ha rfl (by decide)
    refine ⟨fun htail hin => ?_, fun htail hout => ?_, fun htail => ?_⟩
    · have hvalid := (hlist hhead htail).mpr hin
      exact h.last (by decide) rfl hst ((completedBy_scan c part0 part1).trans (if_pos hvalid)) rfl
        rfl rfl rfl ((hscan hst).mpr ⟨htail, hvalid⟩) hbusy hmode
    · exact h.unsound fun hsound => hout ((hlist hhead htail).mp ((hscan hst).mp hsound).2)
    · exact h.unsound fun hsound => htail ((hscan hst).mp hsound).1
  · refine ⟨fun ha hadm => ?_, fun ha hadm hst => ?_, fun ha hadm hst hlow0 hlow1 => ?_⟩
    · obtain ⟨hright, hbusy, hmode⟩ := hadm
      have h := hasks hright ha (hmulti (.inr hitem)) (by rw [hcount hitem]; decide)
      have hsound := partSound_strap (s := s) (p := p) (part := 0) (ws := part0) (hne hitem)
        (.inl (by rw [hcount hitem]; decide))
      exact ⟨fun hlow => h.first rfl (hsound.mpr hlow) hbusy hmode,
        fun hlow => h.unsound (hsound.not.mpr hlow)⟩
    · obtain ⟨hright, hbusy, hmode⟩ := hadm
      have h := hasks hright ha (hmulti (.inr hitem)) (by rw [hcount hitem]; decide)
      have hsound := partSound_strap (s := s) (p := p) (part := 1) (ws := part1) (hne hitem)
        (.inl (by rw [hcount hitem]; decide))
      exact ⟨fun hlow => h.next (by decide) (by rw [hcount hitem]; decide) hst (hsound.mpr hlow)
        hbusy hmode, fun hlow => h.unsound (hsound.not.mpr hlow)⟩
    · obtain ⟨hright, hbusy, hmode⟩ := hadm
      have h := hasks hright ha (hmulti (.inr hitem)) (by rw [hcount hitem]; decide)
      refine ⟨fun hlow2 hrising => ?_, fun hno => h.unsound fun hsound => hno ?_⟩
      · have hvalid := htable.mpr ⟨⟨hlow0, hlow1, hlow2⟩, hrising⟩
        have hnew := (completedBy_strap c part0 part1 part2 (hne hitem)).trans (if_pos hvalid)
        have hsound := (hstrap hitem hst).mpr ⟨hlow2, hvalid⟩
        refine ⟨fun h11 => ?_, fun h12 => ?_⟩
        · subst h11
          exact h.last (by decide) rfl hst hnew rfl rfl rfl rfl hsound hbusy hmode
        · subst h12
          exact h.last (by decide) rfl hst hnew rfl rfl rfl rfl hsound hbusy hmode
      · obtain ⟨hlow2, hvalid⟩ := (hstrap hitem hst).mp hsound
        exact ⟨hlow2, (htable.mp hvalid).2⟩
  · refine ⟨fun hright ha => exec_part_noRight hp hs hc (hmulti hitem) hright ha,
      fun hright ha hpart => exec_part_missing hp hs hc (hmulti hitem) hright hpart ha,
      fun hadm ha hk hpart hother => ?_⟩
    obtain ⟨hright, hbusy, hmode⟩ := hadm
    exact (hasks hright ha (hmulti hitem) hpart).unexpected hk hother hbusy hmode
  · refine ⟨fun ha hhead => ?_, fun ha hst hhead htail hin => ?_, fun ha hother => ?_,
      fun hitem ha hlow hpart => ?_, fun hitem ha hst hlow0 hlow1 hlow2 hrising => ?_⟩
    · exact (hasks hright ha rfl (by decide)).gated (partSound_scanHead.mpr hhead) hgate
    · exact (hasks hright ha rfl (by decide)).gated
        ((hscan hst).mpr ⟨htail, (hlist hhead htail).mpr hin⟩) hgate
    · exact (hasks hright ha rfl (by decide)).gated (partSound_scanTail_unstaged hother) hgate
    · have h := hasks hright ha (hmulti (.inr hitem)) (by rw [hcount hitem]; omega)
      refine h.gated ((partSound_strap (hne hitem) ?_).mpr hlow) hgate
      rcases hpart with hpart | ⟨hpart, hother⟩
      · exact .inl (by rw [hcount hitem]; omega)
      · exact .inr (expectsPart_of_other (by rw [hpart]; exact hother))
    · have h := hasks hright ha (hmulti (.inr hitem)) (by rw [hcount hitem]; decide)
      exact h.gated ((hstrap hitem hst).mpr
        ⟨hlow2, htable.mpr ⟨⟨hlow0, hlow1, hlow2⟩, hrising⟩⟩) hgate
  · refine ⟨fun ha hhead => ?_, fun ha hst hno => ?_, fun hitem hpart ha hlow => ?_,
      fun hitem ha hst hno => ?_⟩
    · exact (hasks hright ha rfl (by decide)).unsound (partSound_scanHead.not.mpr hhead)
    · refine (hasks hright ha rfl (by decide)).unsound fun hsound => hno ?_
      obtain ⟨htail, hvalid⟩ := (hscan hst).mp hsound
      simp only [scanListValid, Bool.and_eq_true, List.contains_iff_mem] at hvalid
      exact ⟨htail, hvalid.2⟩
    · refine (hasks hright ha (hmulti (.inr hitem)) (by rw [hcount hitem]; omega)).unsound
        fun hsound => hlow ?_
      exact (partInRange_strap _ _ (hne hitem)).mp hsound.1
    · refine (hasks hright ha (hmulti (.inr hitem)) (by rw [hcount hitem]; decide)).unsound
        fun hsound => hno ?_
      exact (htable.mp ((hstrap hitem hst).mp hsound).2).2

end Sys2Proof.Machine
end

section
/-! The end of the start-up load: the configuration loaded, the records, and the table placement. -/

namespace Sys2Proof.Machine

section Load

variable {w : When} {lines : Levels} {s : State}

theorem exec_startUpLoadEnd (hp : s.phase = .loading) :
    exec (.startUpLoadEnd w lines) s =
      .next (takeHandovers w (loadEnd lines (pass w.dt s))) := by
  have hphase : (pass w.dt s).phase = .loading :=
    ((congrArg Still.phase (still_pass w.dt s)).trans (advance_phase _ _)).trans hp
  rw [exec_eq, happen]
  exact congrArg (fun x => Host.Outcome.next (takeHandovers w x)) (if_pos hphase)

/-- What CFG, LIO and CNV hold once the load has ended (R122, R124, R127, R129, R136, R162). -/
def startedStill (lines : Levels) (c : WorkingConfig) (invalid : Bool) (u : Still) : Still :=
  { u with
    phase := .running
    cfg := { u.cfg with working := some c, configInvalid := invalid }
    inputs := firstSample lines
    settle := some ⟨u.timeBase, c.timing.debounce⟩
    published := false
    gate := some ⟨u.timeBase, c.rates.gate⟩
    gateCount := 0
    periodStart := some u.usCount
    cnv := { u.cnv with
      toConvert := c.scanList, begun := u.usCount
      scanPeriod := some ⟨u.timeBase, c.rates.scanPeriod⟩ } }

theorem still_placeTable (s : State) : still (placeTable s) = still s := by
  rw [placeTable, still_deriveBlocks, treatRows_eq, midway_frame]
  generalize (midway .placeAll s 24).lkt.rows = rows
  rfl

theorem still_loadEnd_good (hg : imageGood s.cfg.image = true) :
    still (loadEnd lines s) =
      startedStill lines (configOfImage s.cfg.image.words) false (still s) := by
  have hload : loadConfig s = { s with phase := .running, cfg := { s.cfg with
      working := some (configOfImage s.cfg.image.words), configInvalid := false } } := by
    rw [loadConfig, if_pos hg, loadedConfig, if_pos hg, hg]
    rfl
  rw [loadEnd, still_placeTable, hload]
  rfl

theorem still_loadEnd_bad (hg : imageGood s.cfg.image = false) :
    still (loadEnd lines s) =
      { startedStill lines factory true (still s) with causes :=
        ⟨{ s.ntq.chassis.causes with configDefaulted := true },
          { s.ntq.cab.causes with configDefaulted := true },
          { s.ntq.panel.causes with configDefaulted := true }⟩ } := by
  have hload : loadConfig s = addCauseAll .configDefaulted { s with
      phase := .running
      cfg := { s.cfg with working := some factory, configInvalid := true } } := by
    rw [loadConfig, if_neg (by simp [hg]), loadedConfig, if_neg (by simp [hg]), hg]
    rfl
  rw [loadEnd, still_placeTable, hload]
  rfl

/-- A hand-over of the block set by LKT. -/
def handsBlocks : Handover → Bool
  | .blocksToSeq _ | .blocksToGov _ | .blocksToTnk _ => true
  | _ => false

/-- The part on `c` before SEQ has left INIT: whatever block set is handed on, LKT and the notice
queues are as the end of the load left them, and D is 0. -/
structure Starting (c : WorkingConfig) (wait : Timer) (lkt : LktUnit) (ntq : PerPort NtqPort)
    (s : State) : Prop where
  conf : Machine.conf s = c
  hand : ∀ g ∈ s.hand, handsBlocks g = true
  lkt : s.lkt = lkt
  ntq : s.ntq = ntq
  mode : s.seq.mode = .init
  startWait : s.seq.startWait = some wait
  gov : s.gov = { resetGov with
    sp := c.govDefaults.pressure, sn := c.govDefaults.speed, cIntake := c.gains.ceiling
    c := if holdsBlock s.gov.blocks .throttle then 0 else c.gains.ceiling
    supply := c.fillItems.supplyDefault, blocks := s.gov.blocks }
  supply : s.tnk.supply = c.fillItems.supplyDefault
  fill : s.tnk.fill = none

namespace Starting

variable {c : WorkingConfig} {wait : Timer} {lkt : LktUnit} {ntq : PerPort NtqPort}

theorem govTakesBlocks (h : Starting c wait lkt ntq s) (b : BlockSet) :
    Machine.govTakesBlocks b s = { s with gov := { s.gov with
      blocks := b, c := if holdsBlock b .throttle then 0 else c.gains.ceiling } } := by
  have hgov := h.gov
  have hd : s.gov.d = 0 := by rw [hgov]; rfl
  have hci : s.gov.cIntake = c.gains.ceiling := by rw [hgov]
  have hc : s.gov.c = if holdsBlock s.gov.blocks .throttle then 0 else c.gains.ceiling := by
    rw [hgov]
  have hceiling : ceilingFor (Machine.conf s).gains.ceiling s.gov.cIntake b =
      if holdsBlock b .throttle then 0 else c.gains.ceiling := by
    rw [ceilingFor, h.conf, hci, Nat.min_self]
  unfold Machine.govTakesBlocks
  dsimp only
  split
  · next hb => rw [hb, ← hc]
  · rw [applyCeiling, setDemand, if_pos (by dsimp only; rw [hd, Nat.zero_min])]
    exact congrArg (fun x => { s with gov := { s.gov with blocks := b, c := x } }) hceiling

theorem deliver (h : Starting c wait lkt ntq s) {g : Handover} (hg : handsBlocks g = true) :
    Starting c wait lkt ntq (Machine.deliver g s) := by
  obtain ⟨hconf, hhand, hlkt, hntq, hmode, hwait, hgov, hsupply, hfill⟩ := id h
  cases g with
  | blocksToSeq b =>
    rw [Machine.deliver, seqTakesBlocks_stays (.inr (by rw [hmode]; rfl))]
    exact ⟨hconf, hhand, hlkt, hntq, hmode, hwait, hgov, hsupply, hfill⟩
  | blocksToGov b =>
    rw [Machine.deliver, h.govTakesBlocks]
    refine ⟨hconf, hhand, hlkt, hntq, hmode, hwait, ?_, hsupply, hfill⟩
    dsimp only
    rw [hgov]
  | blocksToTnk b =>
    rw [Machine.deliver, tnkTakesBlocks_closed hfill]
    exact ⟨hconf, hhand, hlkt, hntq, hmode, hwait, hgov, hsupply, hfill⟩
  | _ => cases hg

theorem takeHandovers (h : Starting c wait lkt ntq s) (w : When) :
    Starting c wait lkt ntq (Machine.takeHandovers w s) :=
  takeHandovers_induct (Starting c wait lkt ntq)
    (fun g rest s h hg hrest => by
      obtain ⟨hconf, hhand, hlkt, hntq, hmode, hwait, hgov, hsupply, hfill⟩ := h
      have hnext : Starting c wait lkt ntq { s with hand := rest } :=
        ⟨hconf, fun g hg => hhand g (hrest g hg), hlkt, hntq, hmode, hwait, hgov, hsupply, hfill⟩
      exact hnext.deliver (hhand g hg)) w s h

end Starting

theorem hand_placeTable (h : s.hand = []) : ∀ g ∈ (placeTable s).hand, handsBlocks g = true := by
  have hhand : (treatRows .placeAll s).hand = [] := by
    rw [treatRows_eq, midway_frame]
    exact h
  rw [placeTable, deriveBlocks_eq]
  dsimp only
  rw [hhand, List.nil_append]
  intro g hg
  split at hg
  · cases hg
  · simp only [List.mem_cons, List.not_mem_nil, or_false] at hg
    rcases hg with rfl | rfl | rfl <;> rfl

/-- The end of the load with the units at their reset values (R69, R70, R101, R5). -/
theorem starting_loadEnd (hp : s.phase = .loading) (h : HeldSound s) :
    Starting (loadedConfig s.cfg.image)
      ⟨s.timeBase, (loadedConfig s.cfg.image).timing.debounce⟩ (loadEnd lines s).lkt
      (loadConfig s).ntq (loadEnd lines s) := by
  obtain ⟨hseq, -, hgov, htnk, -, -, -, -, -, hhand, -⟩ := h (by simp [hp])
  refine ⟨?_, ?_, rfl, ntq_loadEnd lines s, ?_, ?_, ?_, ?_, ?_⟩
  · rw [conf, cfg_loadEnd]
    rfl
  · rw [loadEnd]
    refine hand_placeTable ?_
    rw [startScan_hand, startPwm_hand, startGate_hand, startInputs, loadRecords, loadConfig]
    split <;> exact hhand
  · rw [seq_loadEnd, hseq]
    rfl
  · rw [seq_loadEnd]
    rfl
  · rw [gov_loadEnd, hgov]
    dsimp only
    rw [show holdsBlock resetGov.blocks .throttle = false by decide]
    rfl
  · rw [tnk_loadEnd]
  · rw [tnk_loadEnd, htnk]
    rfl

theorem pass_of_heldSound (dt : Nat) (hp : s.phase = .loading) (h : HeldSound s) :
    pass dt s = advance dt s := by
  obtain ⟨-, -, -, -, -, -, -, -, -, hhand, -⟩ := h (by simp [hp])
  exact pass_of_hand_nil dt hhand

/-- R69: LKT's record before the table placement. -/
theorem lkt_started (lines : Levels) (s : State) :
    (startScan (startPwm (startGate (startInputs lines (loadRecords (loadConfig s)))))).lkt =
      { s.lkt with
        sources := resetSources (loadedConfig s.cfg.image).fillItems.supplyDefault
          (!imageGood s.cfg.image) } := by
  rw [startScan_lkt, startPwm_lkt, startGate_lkt, startInputs, lkt_loadRecords, lkt_loadConfig,
    loadConfig]
  split <;> rfl

theorem sources_loadEnd (lines : Levels) (s : State) :
    (loadEnd lines s).lkt.sources =
      resetSources (loadedConfig s.cfg.image).fillItems.supplyDefault
        (!imageGood s.cfg.image) := by
  rw [loadEnd, placeTable, (deriveBlocks_rows _).2.1, treatRows_eq, midway_frame]
  dsimp only
  rw [lkt_started]

end Load

/-- Settles O19: what no hand-over changes stands; the block set handed on moves no other record. -/
theorem goodImageBecomesTheWorkingConfiguration :
    Obligations.GoodImageBecomesTheWorkingConfiguration := by
  unfold Obligations.GoodImageBecomesTheWorkingConfiguration
  refine ⟨fun w lines s hp hgood => ?_, fun c hc => configOfImage_of_configOfWords hc⟩
  intro u c
  have hpass := still_pass w.dt s
  have himage : (pass w.dt s).cfg.image = s.cfg.image :=
    (congrArg (fun x => x.cfg.image) hpass).trans (by rw [show (still (advance w.dt s)).cfg =
      (advance w.dt s).cfg from rfl, advance_cfg])
  refine ⟨_, exec_startUpLoadEnd hp, ?_, fun hheld => ?_⟩
  · rw [still_takeHandovers, still_loadEnd_good (by rw [himage]; exact hgood), himage, hpass]
    rfl
  · rw [pass_of_heldSound _ hp hheld]
    have hloaded : loadedConfig u.cfg.image = c := by
      rw [advance_cfg, loadedConfig, if_pos hgood]
    have hstart := (starting_loadEnd (lines := lines) (s := u) ((advance_phase _ _).trans hp)
      (heldSound_advance w.dt hheld)).takeHandovers w
    have hsources := sources_loadEnd lines u
    rw [hloaded] at hstart hsources
    rw [advance_cfg, hgood] at hsources
    obtain ⟨-, -, hlkt, -, hmode, hwait, hgov, hsupply, hfill⟩ := hstart
    have hslot : ∀ x, sourceSlot (takeHandovers w (loadEnd lines u)) x =
        (resetSources c.fillItems.supplyDefault false).getD (sourceCode x) ⟨none, none⟩ := by
      intro x
      rw [sourceSlot, hlkt, hsources]
      rfl
    refine ⟨hmode, hwait, ?_, ?_, ?_, ?_, ?_, ?_, ?_, ?_, hsupply, hfill, ?_, ?_⟩
    case refine_6 => exact congrArg GovUnit.c hgov
    case refine_9 | refine_10 =>
      rw [hslot]
      rfl
    all_goals rw [hgov]
    all_goals rfl

/-- Settles O20. -/
theorem badImageGivesTheFactoryDefaults : Obligations.BadImageGivesTheFactoryDefaults := by
  unfold Obligations.BadImageGivesTheFactoryDefaults
  intro w lines s hp hbad
  have hpass := still_pass w.dt s
  have hcfg : (pass w.dt s).cfg = s.cfg :=
    (congrArg Still.cfg hpass).trans (advance_cfg w.dt s)
  have hcauses : (still (pass w.dt s)).causes = (still s).causes := by
    rw [hpass, still, advance_ntq, still]
  obtain ⟨t, ht⟩ : ∃ t, t = takeHandovers w (loadEnd lines (pass w.dt s)) := ⟨_, rfl⟩
  have hstill := (congrArg still ht).trans (still_takeHandovers w _)
  rw [still_loadEnd_bad (by rw [hcfg]; exact hbad)] at hstill
  have htcfg : t.cfg = { s.cfg with working := some factory, configInvalid := true } := by
    refine (congrArg Still.cfg hstill).trans ?_
    rw [← hcfg]
    rfl
  refine ⟨t, by rw [ht]; exact exec_startUpLoadEnd hp, congrArg Still.phase hstill, ?_, ?_, ?_,
    fun p => ?_⟩
  · rw [htcfg]
  · rw [htcfg]
  · rw [htcfg]
  · have hset := congrArg Still.causes hstill
    cases p with
    | chassis =>
      exact (congrArg PerPort.chassis hset).trans (congrArg (fun x : PerPort CauseSet =>
        { x.chassis with configDefaulted := true }) hcauses)
    | cab =>
      exact (congrArg PerPort.cab hset).trans (congrArg (fun x : PerPort CauseSet =>
        { x.cab with configDefaulted := true }) hcauses)
    | panel =>
      exact (congrArg PerPort.panel hset).trans (congrArg (fun x : PerPort CauseSet =>
        { x.panel with configDefaulted := true }) hcauses)

end Sys2Proof.Machine
end

section
/-! The table placement on the factory configuration (R69). -/

namespace Sys2Proof.Machine

section Placement

variable {m s : State} {i : Nat} {r : RowRecord}

/-- The row states that R69 gives on the factory configuration. -/
def initialStates : List RowState :=
  [.active, .off, .off, .off, .active, .clear, .off, .off, .clear, .off, .off, .clear] ++
    List.replicate 12 .off

/-- A source whose value R43 never calls faulted. -/
def neverFaulted : Source → Bool
  | .inputs | .speedQuality | .fillActive | .configInvalid => true
  | _ => false

theorem sourceFaulted_of_never {x : Source} (h : neverFaulted x = true) (s : State) :
    sourceFaulted s x = false := by
  cases x with
  | inputs | speedQuality | fillActive | configInvalid => rfl
  | _ => cases h

/-- A condition on such a source is as its latest value gives it. -/
theorem condition_atReset (hs : m.lkt.sources = State.reset.lkt.sources) (hi : i ≠ 6)
    (hr : neverFaulted r.source = true) (wide : Bool) :
    condition m i r wide = condition State.reset i r wide := by
  unfold condition
  rw [if_neg hi, if_neg hi, sourceFaulted_of_never hr, sourceFaulted_of_never hr, sourceSlot, hs,
    ← sourceSlot]

/-- Placement before SEQ has left INIT, of a row that takes part there only as said. -/
theorem placed_atReset (hmode : m.lkt.mode = .init)
    (hs : m.lkt.sources = State.reset.lkt.sources)
    (hr : inMask r.mask .init = true →
      i ≠ 6 ∧ r.precursor = none ∧ neverFaulted r.source = true) :
    (placed m i r).state = (placed State.reset i r).state := by
  by_cases h : r.enable = true ∧ inMask r.mask .init = true
  · obtain ⟨hi, hprec, hsource⟩ := hr h.2
    have hnone : ∀ t : State, ∀ q ∈ r.precursor, inEffect (rowSlot t q).state = true := by
      intro t q hq
      rw [hprec] at hq
      cases hq
    rw [placed_evaluated (by rw [hmode]; exact h) (hnone m), placed_evaluated h (hnone _),
      evaluated, evaluated]
    dsimp only
    rw [condition_atReset hs hi hsource]
    split
    · split <;> rfl
    · rfl
  · rw [placed_off (by rw [hmode]; exact h), placed_off h]

/-- Of the factory rows that take part in INIT none is row 6, has a precursor or a source that can
be faulted. -/
theorem factory_rows_atReset : ∀ i < 24, inMask (rowRecord factory i).mask .init = true →
    i ≠ 6 ∧ (rowRecord factory i).precursor = none ∧
      neverFaulted (rowRecord factory i).source = true := by
  decide

theorem placed_factory : ∀ i < 24,
    (placed State.reset i (rowRecord factory i)).state = initialStates.getD i .off := by
  decide

theorem rowSlot_placeTable (hl : s.lkt.rows.length = 24) (hc : conf s = factory)
    (hmode : s.lkt.mode = .init) (hs : s.lkt.sources = State.reset.lkt.sources) (hi : i < 24) :
    (rowSlot (placeTable s) i).state = initialStates.getD i .off := by
  have hslot : rowSlot (placeTable s) i = rowSlot (handleRows .placeAll s) i := by
    rw [rowSlot, rows_placeTable, rowSlot]
  rw [hslot, rowSlot_handleRows .placeAll s i hi hl, hc, atEvent]
  refine (placed_atReset ?_ ?_ (factory_rows_atReset i hi)).trans (placed_factory i hi)
  · rw [midway_mode, hmode]
  · rw [midway_frame, ← hs]

theorem derivedBlocks_initial (hc : conf s = factory)
    (hrows : ∀ i < 24, (rowSlot s i).state = initialStates.getD i .off) :
    derivedBlocks s = 0x05 := by
  have hfold : derivedBlocks s = (List.range 24).foldl (fun b i =>
      if inEffect (initialStates.getD i .off) then b ||| (rowRecord factory i).blocks else b) 0 :=
    List.foldl_ext _ _ _ fun b i hi => by rw [hrows i (List.mem_range.mp hi), hc]
  rw [hfold]
  decide

theorem states_of_rowSlot {rows : List RowSlot} {l : List RowState}
    (hl : rows.length = l.length)
    (h : ∀ i < l.length, (rows.getD i ⟨.off, none⟩).state = l.getD i .off) :
    rows.map RowSlot.state = l := by
  refine List.ext_getElem (by rw [List.length_map, hl]) fun i hi hi' => ?_
  have hget := h i hi'
  rw [List.getD_eq_getElem _ _ (by omega), List.getD_eq_getElem _ _ hi'] at hget
  rw [List.getElem_map, hget]

end Placement

/-- Settles O21: the five rows that take part in INIT are placed by the values that their sources
hold after a reset. -/
theorem placementAfterAReset : Obligations.PlacementAfterAReset := by
  unfold Obligations.PlacementAfterAReset
  intro w lines
  have himage : State.reset.cfg.image = imageOf factory := rfl
  have hgood : imageGood State.reset.cfg.image = true := by rw [himage]; exact imageGood_imageOf _
  have hloaded : loadedConfig State.reset.cfg.image = factory := by
    rw [loadedConfig, if_pos hgood, himage]
    exact configOfImage_of_configOfWords (imageReadsBackAsWritten _ configValid_factory)
  have hheld : HeldSound State.reset := heldSound_resetTo .loading .supplyStart State.reset
  have hpass := pass_of_heldSound w.dt (s := State.reset) rfl hheld
  obtain ⟨u, hu⟩ : ∃ u, u = advance w.dt State.reset := ⟨_, rfl⟩
  rw [← hu] at hpass
  have hphase : u.phase = .loading := by rw [hu]; exact advance_phase _ _
  have hcfg : u.cfg = State.reset.cfg := by rw [hu, advance_cfg]
  have hlkt : u.lkt = resetLkt := by rw [hu]; exact advance_lkt _ _
  have hntq : u.ntq = State.reset.ntq := by rw [hu, advance_ntq]
  have hheldu : HeldSound u := by rw [hu]; exact heldSound_advance w.dt hheld
  obtain ⟨y, hy⟩ : ∃ y, y = startScan (startPwm (startGate (startInputs lines
    (loadRecords (loadConfig u))))) := ⟨_, rfl⟩
  have hylkt : y.lkt = resetLkt := by
    rw [hy, lkt_started, hlkt, hcfg, hloaded, hgood]
    rfl
  have hload : loadEnd lines u = placeTable y := by rw [hy, loadEnd]
  have hconf : conf (loadEnd lines u) = factory := by
    rw [conf, cfg_loadEnd, hcfg, hloaded]
    rfl
  obtain ⟨hlength, -, -, hblocks, hpermit⟩ : LktSound (loadEnd lines u) :=
    lktSound_loadEnd lines ((lktSound_resetTo .loading .supplyStart State.reset).of_eq hlkt
      fun _ _ => by rw [conf_of_cfg hcfg]; rfl)
  have hslots : ∀ i < 24, (rowSlot (loadEnd lines u) i).state = initialStates.getD i .off := by
    intro i hi
    rw [hload]
    exact rowSlot_placeTable (by rw [hylkt]; rfl) (by rw [← conf_placeTable, ← hload, hconf])
      (by rw [hylkt]; rfl) (by rw [hylkt]; rfl) hi
  have hset := hblocks.trans (derivedBlocks_initial hconf hslots)
  obtain ⟨-, -, htlkt, htntq, -⟩ :=
    (starting_loadEnd (lines := lines) hphase hheldu).takeHandovers w
  refine ⟨_, exec_startUpLoadEnd rfl, ?_, ?_, ?_, fun p => ?_⟩
  · rw [hpass, htlkt]
    exact states_of_rowSlot hlength hslots
  · rw [hpass, htlkt, hset]
  · rw [hpass, htlkt, hpermit, hset, hload, mode_placeTable, hylkt]
    rfl
  · rw [hpass, htntq, loadConfig, if_pos (by rw [hcfg]; exact hgood)]
    dsimp only
    rw [hntq]
    cases p <;> rfl

end Sys2Proof.Machine
end
